-- ==== Sys2Proof/Word.lean ====
section
/-! DEFINITION. The word types of the block: every stored or transmitted datum is a byte (R35, R38), and the one
16-bit value is a stretched glyph column (R90). Coordinates are integers (`int` of `00_scope.md` section 5). -/

namespace Sys2Proof

/-- A `u8` (`00_scope.md` section 5). -/
abbrev Byte := BitVec 8

/-- A `u16`: the output of the bit-stretch unit (R90), and the two bytes of an `i16` operand (R53). -/
abbrev Half := BitVec 16

end Sys2Proof
end

