-- ==== Sys2Proof/Machine/BitStretch.lean ====
section
/-! DEFINITION. The Bit-Stretch Unit (R90 to R94): a combinational function with no state. -/

namespace Sys2Proof.Machine

/-- `Stretch(m)`: output bits 2i and 2i+1 both equal input bit i (R90). -/
def stretch (m : Byte) : Half :=
  (List.range 8).foldl
    (fun r i => if m.getLsbD i then r ||| (3#16 <<< (2 * i)) else r) 0#16

/-- The equivalent masked-shift form (R91). -/
def stretchMasked (m : Byte) : Half :=
  let t := m.setWidth 16
  let t := (t ||| (t <<< 4)) &&& 0x0F0F#16
  let t := (t ||| (t <<< 2)) &&& 0x3333#16
  let t := (t ||| (t <<< 1)) &&& 0x5555#16
  t ||| (t <<< 1)

/-- `r[7:0]`, the byte of the cursor's page (R92). -/
def lowPage (r : Half) : Byte := r.extractLsb' 0 8

/-- `r[15:8]`, the byte of the next page (R92). -/
def highPage (r : Half) : Byte := r.extractLsb' 8 8

end Sys2Proof.Machine
end

