-- ==== Sys2Proof/Config.lean ====
section
/-! DEFINITION. The configuration of the block (R3 to R7, R25) and the free values the spec leaves open.
A configuration is plain data that a state carries from its reset on; the `opaque` constants have no body, so that
no proof can see their values. -/

namespace Sys2Proof

/-- PAGE_COUNT: 4 for a 32-pixel panel, 8 for a 64-pixel one (R3). -/
inductive PageCount where
  | four
  | eight
  deriving DecidableEq, Repr, Inhabited

/-- MODE, the buffering mode selector (R4). -/
inductive Mode where
  | direct
  | hardwareBuffer
  | softwareBuffer
  deriving DecidableEq, Repr, Inhabited

/-- One entry of FONT: the six column masks of a glyph, left to right; column 5 is the spacer (R6, R131). -/
structure Glyph where
  col0 : Byte
  col1 : Byte
  col2 : Byte
  col3 : Byte
  col4 : Byte
  col5 : Byte
  deriving DecidableEq, Repr, Inhabited

/-- The configuration tuple of R10, with the two bus values of R231 that no rule reads (D37).
GLYPH_COUNT is the length of `font` (R6). -/
structure Config where
  pageCount : PageCount
  mode : Mode
  /-- AUTO_SEND (R5). -/
  autoSend : Bool
  /-- FONT, by glyph index (R6). -/
  font : List Glyph
  /-- SUBST_AS_CODE (R7); this hardware takes 1, and the other reading is kept as an argument. -/
  substAsCode : Bool
  busClockHz : Nat
  busAddress : Nat
  deriving DecidableEq, Repr

/-- PAGE_COUNT as a number (R3). -/
def PageCount.toNat : PageCount → Nat
  | .four => 4
  | .eight => 8

/-- The free value PM_INIT (R20): what byte `i` of panel memory holds after the `n`-th reset (R27, U8). -/
opaque Config.pmInit (n i : Nat) : Byte

/-- The free value SB_INIT (R19): what byte `i` of the shadow buffer holds after the `n`-th reset (R27, U9). -/
opaque Config.sbInit (n i : Nat) : Byte

/-- The free PAGE_COUNT of the machine `State.reset` describes (R3, "OPEN: model argument"). -/
opaque Config.bootPageCount : PageCount

/-- The free MODE of the machine `State.reset` describes (R4). -/
opaque Config.bootMode : Mode

/-- The free AUTO_SEND of the machine `State.reset` describes (R5). -/
opaque Config.bootAutoSend : Bool

/-- The free data column `k` of glyph `g` of the machine `State.reset` describes (R6: content out of scope). -/
opaque Config.bootFontColumn (g k : Nat) : Byte

/-- The free BUS_CLOCK_HZ of the machine `State.reset` describes (D37). -/
opaque Config.bootBusClockHz : Nat

/-- The free BUS_ADDRESS of the machine `State.reset` describes (D37). -/
opaque Config.bootBusAddress : Nat

/-- A glyph of the free font: free data columns and the blank spacer that R6 (a) demands. -/
def Config.bootGlyph (g : Nat) : Glyph :=
  { col0 := Config.bootFontColumn g 0
    col1 := Config.bootFontColumn g 1
    col2 := Config.bootFontColumn g 2
    col3 := Config.bootFontColumn g 3
    col4 := Config.bootFontColumn g 4
    col5 := 0 }

/-- The configuration `State.reset` takes: every parameter the spec leaves open is free, SUBST_AS_CODE is 1 (R7),
and the font is well formed with the least GLYPH_COUNT that R6 (b) admits. DESIGN CHOICE (log 3): safe. -/
def Config.boot : Config :=
  { pageCount := Config.bootPageCount
    mode := Config.bootMode
    autoSend := Config.bootAutoSend
    font := (List.range 159).map Config.bootGlyph
    substAsCode := true
    busClockHz := Config.bootBusClockHz
    busAddress := Config.bootBusAddress }

end Sys2Proof
end

