-- ==== Sys2Proof/Machine/State.lean ====
section
/-! DEFINITION. The state of the block (R10), as plain data, the reasons a step can stop, and the state after reset
(R230). `INVENTORY.md` lists every field with its rule. -/

namespace Sys2Proof.Machine

/-- `scale`, held in one bit: 0 stands for 1 and 1 stands for 2 (R13). -/
inductive Scale where
  | one
  | two
  deriving DecidableEq, Repr

/-- The command parser state (R22): idle, or holding the opcode byte `op`, the number `need` of operand bytes still
expected, and the operand bytes `ops` received so far. -/
inductive Parse where
  | idle
  | collect (op : Byte) (need : Nat) (ops : List Byte)
  deriving DecidableEq, Repr

/-- A bus event of the trace (R23): a write transaction with its window and its data (R36), or a read of the byte at
pixel column `x`, page `p`, that returned `v` (R37). -/
inductive BusEvent where
  | tx (xa xb pa pb : Nat) (data : List Byte)
  | rd (x p : Nat) (v : Byte)
  deriving DecidableEq, Repr

/-- A pixel store: the bytes written since reset, by index (R30, R31), addresses strictly rising (`Memory.wf`).
An index that is not listed holds no byte of the model's: it reads as its draw (R27; log 5). -/
abbrev Memory := List Host.Cell

/-- Why the machine stops with a fault. The block has no trap (R210) and `93_implementation_defined.md` uses no
fault, so the one constructor is the model's own. -/
inductive Fault where
  /-- Raised by `step` when the parser holds a partial command that no byte stream leads to, and its last byte
  arrives (log 8). Safe: no state reached from a reset raises it, and the model stops where the spec says nothing. -/
  | parserInconsistent
  deriving DecidableEq, Repr

/-- Why the machine refuses. -/
inductive Refusal where
  /-- Raised by an arm of `exec` whose instruction has no meaning yet. Safe: the model stops. No arm does. -/
  | notModelled (mnemonic : String)
  /-- Raised by `step`, and by the meaning of PUTC, when FONT is ill formed (R6, R137, D29, U13: the configuration is
  refused). Safe: the spec gives no behaviour to such a configuration. -/
  | illFormedConfig
  deriving DecidableEq, Repr

/-- The state of the block (R10). -/
structure State where
  /-- The configuration, latched at reset; no command writes it (R25). -/
  cfg : Config
  /-- The text cell column, 5 bits, legal 0..19 (R11). -/
  column : BitVec 5
  /-- The page of the cursor, 3 bits, legal 0..PAGE_COUNT-1 (R12). -/
  row : BitVec 3
  /-- The text scale (R13). -/
  scale : Scale
  /-- Complement glyph masks (R14). -/
  inverse : Bool
  /-- The raw operand of the most recent PUTC (R15). -/
  lastByte : Byte
  /-- STATUS.END: a row advance was clamped (R16). -/
  endFlag : Bool
  /-- STATUS.OOR, sticky (R17, R211). -/
  oor : Bool
  /-- STATUS.ILL, sticky (R17, R212). -/
  ill : Bool
  /-- The command parser (R22). -/
  parse : Parse
  /-- SB, the shadow buffer; it exists only in SoftwareBuffer mode (R19). -/
  sb : Memory
  /-- PM, the panel memory (R20). -/
  pm : Memory
  /-- The bus events since reset, oldest first (R23). -/
  trace : List BusEvent
  /-- The model's own: the bytes the host has offered on the command port (R57) and the block has not accepted,
  oldest first (log 1). -/
  input : List Byte
  /-- The model's own: how many resets came before this one, which selects the draws of SB and PM (log 6). -/
  resets : Nat
  deriving DecidableEq, Repr

/-- The state after a reset that takes the configuration `c` (R230, R231). The draws of SB and PM are what an
unlisted index reads as, so nothing is listed. -/
def State.resetWith (c : Config) : State :=
  { cfg := c
    column := 0
    row := 0
    scale := .one
    inverse := false
    lastByte := 0
    endFlag := false
    oor := false
    ill := false
    parse := .idle
    sb := []
    pm := []
    trace := []
    input := []
    resets := 0 }

/-- The machine right after reset (R230), with every parameter the spec leaves open free (log 3). -/
def State.reset : State := State.resetWith Config.boot

end Sys2Proof.Machine
end

