-- ==== Sys2Proof/Machine/Flags.lean ====
section
/-! DEFINITION. The conditions (R210 to R214) and the two registers of the host read port (R17, R18).
The block has no trap: what stands in the place of taking an exception is `raise`, and what stands in the place of
returning from one is `clearConditions`. -/

namespace Sys2Proof.Machine

/-- The conditions a command can raise (R214). -/
inductive Condition where
  /-- "byte has no glyph index" (R211). -/
  | oor
  /-- Illegal command (R212). -/
  | ill
  deriving DecidableEq, Repr

/-- The cause code of a condition, which is also its STATUS bit (R214). -/
def Condition.code : Condition → Nat
  | .oor => 1
  | .ill => 2

/-- Raising a condition sets its sticky bit and nothing else; the command then goes on (R210). -/
def raise (c : Condition) (s : State) : State :=
  match c with
  | .oor => { s with oor := true }
  | .ill => { s with ill := true }

/-- `OOR <- 0; ILL <- 0` (R159). -/
def clearConditions (s : State) : State := { s with oor := false, ill := false }

/-- BUSY: the parser holds a partial command (R17). -/
def busy (s : State) : Bool := s.parse != .idle

/-- A bit of a register, as a byte: `b` at bit `k`. -/
def bitAt (k : Nat) (b : Bool) : Byte := if b then 1#8 <<< k else 0#8

/-- STATUS: END, OOR, ILL and BUSY in bits 0 to 3; bits 7:4 read 0 (R17). -/
def statusReg (s : State) : Byte :=
  bitAt 0 s.endFlag ||| bitAt 1 s.oor ||| bitAt 2 s.ill ||| bitAt 3 (busy s)

/-- The code of a mode in CFG (R18). -/
def modeCode : Mode → Byte
  | .direct => 0b00#8
  | .hardwareBuffer => 0b01#8
  | .softwareBuffer => 0b10#8

/-- CFG: PG8 in bit 0, MODE in bits 2:1, AUTO_SEND in bit 3; bits 7:4 read 0 (R18). -/
def cfgReg (c : Config) : Byte :=
  bitAt 0 (c.pageCount == .eight) ||| (modeCode c.mode <<< 1) ||| bitAt 3 c.autoSend

/-- `isEnd()`: STATUS bit END (R160). -/
def isEnd (s : State) : Bool := (statusReg s).getLsbD 0

end Sys2Proof.Machine
end

