-- ==== Sys2Proof/Machine/Operands.lean ====
section
/-! DEFINITION. The geometry of the panel and of the text grid, and the forms in which commands name pixels:
pixel coordinates, text cells, and the clamped operands of SETCUR. -/

namespace Sys2Proof.Machine

/-- WIDTH (R2). -/
def panelWidth : Nat := 128

/-- COLS, the text cells of a row (R8). -/
def textCols : Nat := 20

/-- CELL_W, the pixel columns of a text cell at scale 1 (R8). -/
def cellWidth : Nat := 6

/-- PAGE_COUNT of the configuration (R3). -/
def pages (s : State) : Nat := s.cfg.pageCount.toNat

/-- HEIGHT in pixel rows (R3). -/
def panelHeight (s : State) : Nat := 8 * pages s

/-- FB_SIZE in bytes (R3). -/
def fbSize (s : State) : Nat := panelWidth * pages s

/-- `idx(x, p)` for PAGE_COUNT = `n`: column-major, consecutive pages of a column at consecutive indices (R31). -/
def fbIndex (n x p : Nat) : Nat := p + x * n

/-- The number `scale` stands for (R13). -/
def Scale.toNat : Scale → Nat
  | .one => 1
  | .two => 2

/-- Pixel (x, y) lies on the panel: tested on the full-width signed coordinate (R33, R180). -/
def pixelInBounds (s : State) (x y : Int) : Bool :=
  decide (0 ≤ x ∧ x < panelWidth ∧ 0 ≤ y ∧ y < panelHeight s)

/-- The page of pixel row `y` (R33). -/
def pixelPage (y : Int) : Nat := y.toNat / 8

/-- The byte with the bit of pixel row `y` set (R32, R33). -/
def pixelMask (y : Int) : Byte := 1#8 <<< (y.toNat % 8)

/-- The index of the byte that holds pixel (x, y) (R33). -/
def pixelIndex (s : State) (x y : Int) : Nat := fbIndex (pages s) x.toNat (pixelPage y)

/-- One byte write of `WriteBytes`: pixel column, page, value (R100). -/
structure ByteWrite where
  x : Nat
  p : Nat
  v : Byte
  deriving DecidableEq, Repr

/-- The byte write lies on the panel (R34, R113). -/
def ByteWrite.inBounds (n : Nat) (w : ByteWrite) : Bool := decide (w.x < panelWidth ∧ w.p < n)

/-- The elements of a write list that are left after the ones out of bounds are dropped (R113). -/
def clipWrites (n : Nat) (ws : List ByteWrite) : List ByteWrite := ws.filter (ByteWrite.inBounds n)

/-- The pixel column of the cursor cell's origin: `column × 6` at every scale (R150). -/
def cellX (s : State) : Nat := s.column.toNat * cellWidth

/-- The page of the cursor cell's origin (R150). -/
def cellPage (s : State) : Nat := s.row.toNat

/-- `min(col, 19)`, the column SETCUR records (R155). -/
def clampColumn (col : Byte) : BitVec 5 := BitVec.ofNat 5 (min col.toNat (textCols - 1))

/-- `min(row, PAGE_COUNT - 1)`, the row SETCUR records (R155). -/
def clampRow (n : Nat) (row : Byte) : BitVec 3 := BitVec.ofNat 3 (min row.toNat (n - 1))

end Sys2Proof.Machine
end

