-- ==== Sys2Proof/Machine/Ops.lean ====
section
/-! DEFINITION. The pixel stores, the bus, and the shared write primitive of the framebuffer controller.
Taking a condition, the block's only exception mechanism, is `raise` of `Machine/Flags.lean` (R210). -/

namespace Sys2Proof.Machine

/-- The canonical form of a store: addresses strictly rising. An unlisted address reads as no value, so no entry can
equal it, and equal stores are equal lists (log 5). -/
def Memory.wf : Memory → Bool
  | [] => true
  | [_] => true
  | a :: b :: rest => decide (a.1 < b.1) && Memory.wf (b :: rest)

/-- Every listed address is below `n` (R42). -/
def Memory.within (n : Nat) (m : Memory) : Bool := m.all fun c => decide (c.1 < n)

/-- The byte written at an index, or nothing if none was since reset. -/
def Memory.read? : Memory → Nat → Option Byte
  | [], _ => none
  | c :: rest, a => if c.1 = a then some c.2 else Memory.read? rest a

/-- `MemWrite` (`00_scope.md` section 5): the store with byte `v` at index `a`. -/
def Memory.write : Memory → Nat → Byte → Memory
  | [], a, v => [(a, v)]
  | c :: rest, a, v =>
    if c.1 = a then (a, v) :: rest
    else if a < c.1 then (a, v) :: c :: rest
    else c :: Memory.write rest a v

/-- Byte writes in order. -/
def Memory.writeAll (m : Memory) (cells : List Host.Cell) : Memory :=
  cells.foldl (fun m c => m.write c.1 c.2) m

/-- `MemRead(PM, i)`: the last byte written, or the draw PM_INIT[i] (R20, R27). -/
def pmByte (s : State) (i : Nat) : Byte := (s.pm.read? i).getD (Config.pmInit s.resets i)

/-- `MemRead(SB, i)`: the last byte written, or the draw SB_INIT[i] (R19, R27). -/
def sbByte (s : State) (i : Nat) : Byte := (s.sb.read? i).getD (Config.sbInit s.resets i)

/-- `MemWrite(SB, i, v)`. -/
def sbWrite (s : State) (i : Nat) (v : Byte) : State := { s with sb := s.sb.write i v }

/-- SB exists (R19). -/
def hasShadow (s : State) : Bool := s.cfg.mode == .softwareBuffer

/-- A bus event goes to the end of the trace (R23). -/
def logEvent (s : State) (e : BusEvent) : State := { s with trace := s.trace ++ [e] }

/-- Where the data bytes of a transaction land: the window is filled page-fastest (R36). -/
def windowCells (n xa pa pb : Nat) (data : List Byte) : List Host.Cell :=
  data.zipIdx.map fun d =>
    (fbIndex n (xa + d.2 / (pb - pa + 1)) (pa + d.2 % (pb - pa + 1)), d.1)

/-- `PanelTx(xa, xb, pa, pb, data)` (R36). The panel takes every transaction (R218). -/
def panelTx (s : State) (xa xb pa pb : Nat) (data : List Byte) : State :=
  logEvent { s with pm := s.pm.writeAll (windowCells (pages s) xa pa pb data) } (.tx xa xb pa pb data)

/-- `PanelRd(x, p)` (R37): the byte read, and the state with the read in its trace. -/
def panelRd (s : State) (x p : Nat) : Byte × State :=
  let v := pmByte s (fbIndex (pages s) x p)
  (v, logEvent s (.rd x p v))

/-- The whole panel as one window, in index order (R109, R110). -/
def panelTxAll (s : State) (data : List Byte) : State :=
  panelTx s 0 (panelWidth - 1) 0 (pages s - 1) data

/-- Direct mode: the clipped list goes as one transaction over its window, and the old bytes are lost (R101). The
list is in page-fastest order, so its first and last elements are the window's corners (R113). -/
def directWrite (s : State) (ws : List ByteWrite) : State :=
  match ws with
  | [] => s
  | w :: rest =>
    let last := rest.getLastD w
    panelTx s w.x last.x w.p last.p (ws.map (·.v))

/-- Hardware-Readback mode, one byte: read it from the panel, OR the new bits in, write it back (R103). -/
def readbackWrite (s : State) (w : ByteWrite) : State :=
  let r := panelRd s w.x w.p
  panelTx r.2 w.x w.x w.p w.p [r.1 ||| w.v]

/-- Software-Shadow mode, one byte: OR the new bits into the shadow byte (R105), and push the merged byte when
AUTO_SEND is 1 (R106). -/
def shadowWrite (s : State) (w : ByteWrite) : State :=
  let i := fbIndex (pages s) w.x w.p
  let s' := sbWrite s i (sbByte s i ||| w.v)
  if s.cfg.autoSend then panelTx s' w.x w.x w.p w.p [sbByte s' i] else s'

/-- `WriteBytes(L)`: drop what is out of bounds (R113), then act by MODE (R100 to R107). -/
def writeBytes (s : State) (ws : List ByteWrite) : State :=
  let clipped := clipWrites (pages s) ws
  match s.cfg.mode with
  | .direct => directWrite s clipped
  | .hardwareBuffer => clipped.foldl readbackWrite s
  | .softwareBuffer => clipped.foldl shadowWrite s

/-- `SetPixel(x, y)`: nothing out of bounds (R113), else the one byte write of the pixel's bit, which in Direct mode
is the transaction of R102 and in the other modes the merge of R104 and R108. -/
def setPixel (s : State) (x y : Int) : State :=
  if pixelInBounds s x y then writeBytes s [⟨x.toNat, pixelPage y, pixelMask y⟩] else s

end Sys2Proof.Machine
end

