-- ==== Sys2Proof/Syntax.lean ====
section
/-! DEFINITION. The commands of the block: one constructor per row of `spec/opcode_table.json` (R51). -/

namespace Sys2Proof

/-- A command with its operands. A `u8` operand is the byte as is (R52); an `i16` operand is the signed coordinate
it stands for (R53), and `WellFormed` checks that it fits 16 bits. A reserved row carries the opcode bits that its
mask leaves free (R55). -/
inductive Instr where
  /-- 0x00 NOP (R158). -/
  | nop
  /-- 0x01 PUTC b (R153). -/
  | putc (b : Byte)
  /-- 0x02 LNBRK (R154). -/
  | lnbrk
  /-- 0x03 SETCUR col, row (R155). -/
  | setcur (col row : Byte)
  /-- 0x04 SETSCALE s (R156). -/
  | setscale (s : Byte)
  /-- 0x05 SETINV i (R157). -/
  | setinv (i : Byte)
  /-- 0x06 CLEAR (R109). -/
  | clear
  /-- 0x07 FLUSH (R110). -/
  | flush
  /-- 0x08 DOT x, y (R180). -/
  | dot (x y : Int)
  /-- 0x09 LINE x0, y0, x1, y1 (R190). -/
  | line (x0 y0 x1 y1 : Int)
  /-- 0x0A CLRST (R159). -/
  | clrst
  /-- 0x0B, reserved (R55). -/
  | reserved0B
  /-- 0x0C to 0x0F, reserved (R55): match 0x0C, mask 0xFC. -/
  | reserved0C (low : BitVec 2)
  /-- 0x10 to 0x1F, reserved (R55): match 0x10, mask 0xF0. -/
  | reserved10 (low : BitVec 4)
  /-- 0x20 to 0x3F, reserved (R55): match 0x20, mask 0xE0. -/
  | reserved20 (low : BitVec 5)
  /-- 0x40 to 0x7F, reserved (R55): match 0x40, mask 0xC0. -/
  | reserved40 (low : BitVec 6)
  /-- 0x80 to 0xFF, reserved (R55): match 0x80, mask 0x80. -/
  | reserved80 (low : BitVec 7)
  deriving DecidableEq, Repr

end Sys2Proof
end

