-- ==== Sys2Proof/WellFormed.lean ====
section
/-! DEFINITION. What a well-formed command and a well-formed configuration are.
A command is well formed when every operand fits its type (R53, R59). An operand value that only the block finds
illegal (SETSCALE 3) is well formed: it is encodable, and the block raises ILL for it (R54, R59). -/

namespace Sys2Proof

/-- `v` is in the range of an `i16` operand (R53). -/
abbrev fitsI16 (v : Int) : Prop := -32768 ≤ v ∧ v ≤ 32767

/-- Every operand of the command fits its encoding (R50, R53). -/
def Instr.wellFormed : Instr → Bool
  | .dot x y => decide (fitsI16 x ∧ fitsI16 y)
  | .line x0 y0 x1 y1 => decide (fitsI16 x0 ∧ fitsI16 y0 ∧ fitsI16 x1 ∧ fitsI16 y1)
  | .nop | .putc _ | .lnbrk | .setcur _ _ | .setscale _ | .setinv _ | .clear | .flush | .clrst => true
  | .reserved0B | .reserved0C _ | .reserved10 _ | .reserved20 _ | .reserved40 _ | .reserved80 _ => true

/-- GLYPH_COUNT (R6). -/
def Config.glyphCount (c : Config) : Nat := c.font.length

/-- The least GLYPH_COUNT of a well-formed font, by SUBST_AS_CODE (R6 (b)). -/
def Config.minGlyphs (c : Config) : Nat := if c.substAsCode then 159 else 182

/-- A FONT is well formed when every spacer column is blank and every index the resolver can produce is in the
table (R6). A configuration with any other FONT is refused (R137, D29, U13). -/
def Config.wf (c : Config) : Bool :=
  c.font.all (fun g => g.col5 == 0#8) && decide (c.minGlyphs ≤ c.glyphCount)

end Sys2Proof
end

