-- ==== Sys2Proof/Machine/Renderer.lean ====
section
/-! DEFINITION. The Glyph Renderer (R130 to R137): the byte writes of one text cell, handed to the framebuffer
controller in one `WriteBytes`. -/

namespace Sys2Proof.Machine

/-- `FontRead(g, k)` for k = 0..5 (R41, R131), by columns left to right. With a well-formed FONT every glyph the
resolver produces is in the table (R83); a configuration with any other FONT is refused before this is called
(R137), so the blank default is never drawn (log 7). -/
def fontColumns (c : Config) (g : Nat) : List Byte :=
  let e := c.font.getD g ⟨0, 0, 0, 0, 0, 0⟩
  [e.col0, e.col1, e.col2, e.col3, e.col4, e.col5]

/-- The masks of a glyph, complemented when `inverse` is 1, the spacer included (R131, R132). -/
def glyphMasks (s : State) (g : Nat) : List Byte :=
  (fontColumns s.cfg g).map fun m => if s.inverse then ~~~m else m

/-- The write list at scale 1 (R134). -/
def cellWrites1 (x0 p0 : Nat) (masks : List Byte) : List ByteWrite :=
  masks.zipIdx.map fun m => ⟨x0 + m.2, p0, m.1⟩

/-- The four byte writes of one stretched column at scale 2: two pixel columns, two pages (R135). -/
def stretchedColumn (x0 p0 k : Nat) (m : Byte) : List ByteWrite :=
  let r := stretch m
  [⟨x0 + 2 * k, p0, lowPage r⟩, ⟨x0 + 2 * k, p0 + 1, highPage r⟩,
   ⟨x0 + 2 * k + 1, p0, lowPage r⟩, ⟨x0 + 2 * k + 1, p0 + 1, highPage r⟩]

/-- The write list at scale 2, in page-fastest window order (R135). -/
def cellWrites2 (x0 p0 : Nat) (masks : List Byte) : List ByteWrite :=
  masks.zipIdx.flatMap fun m => stretchedColumn x0 p0 m.2 m.1

/-- The list L of R134 and R135 for glyph `g` at the cursor cell. -/
def glyphWrites (s : State) (g : Nat) : List ByteWrite :=
  match s.scale with
  | .one => cellWrites1 (cellX s) (cellPage s) (glyphMasks s g)
  | .two => cellWrites2 (cellX s) (cellPage s) (glyphMasks s g)

/-- `Render(g)` (R130, R136). -/
def render (s : State) (g : Nat) : State := writeBytes s (glyphWrites s g)

end Sys2Proof.Machine
end

