-- ==== Sys2Proof/Machine/Resolver.lean ====
section
/-! DEFINITION. The Glyph Index Resolver (R70 to R84): a pure function of the raw byte, the byte before it, and the
parameter SUBST_AS_CODE. -/

namespace Sys2Proof.Machine

/-- `Result` (R70). -/
inductive Resolved where
  | newline
  | suppress
  | glyph (g : Nat)
  | outOfRange
  deriving DecidableEq, Repr

/-- `Remap(c)`, in the tests and the order of R77; its last arm is R78. The arithmetic is on integers (R73, D11). -/
def remap (c : Nat) : Resolved :=
  let f : Int := (c : Int) - 32
  if f ≤ 90 then .glyph f.toNat
  else if 112 ≤ f ∧ f ≤ 159 then .glyph (f - 17).toNat
  else if 96 ≤ f ∧ f ≤ 111 then .glyph (f + 47).toNat
  else .outOfRange

/-- `Subst(c)`: a character code or a table index, by SUBST_AS_CODE (R75). -/
def substitute (asCode : Bool) (c : Nat) : Resolved :=
  if asCode then
    if c ≤ 127 then .glyph (c - 32) else remap c
  else .glyph c

/-- `Resolve(b, last)`, the normative function of R81. -/
def resolve (asCode : Bool) (b last : Byte) : Resolved :=
  if b.toNat = 10 then .newline
  else if b.toNat ≤ 127 then
    if b.toNat < 32 then .outOfRange else .glyph (b.toNat - 32)
  else if last.toNat = 209 ∧ b.toNat = 145 then substitute asCode 181
  else if last.toNat = 208 ∧ b.toNat = 129 then substitute asCode 149
  else if last.toNat = 226 ∧ b.toNat = 128 then .suppress
  else if last.toNat = 128 ∧ b.toNat = 147 then substitute asCode 45
  else if b.toNat ≤ 191 then remap b.toNat
  else .suppress

end Sys2Proof.Machine
end

