-- ==== Sys2Proof/Machine/Cursor.lean ====
section
/-! DEFINITION. The Cursor/Layout State Machine: its transitions (R150 to R152) and the meanings of the text and
status commands (R153 to R159). -/

namespace Sys2Proof.Machine

/-- `RowAdvance()`: down by `scale` pages; past the last page the row saturates and endFlag is set (R151). -/
def rowAdvance (s : State) : State :=
  let t := s.row.toNat + s.scale.toNat
  if t > pages s - 1 then { s with row := BitVec.ofNat 3 (pages s - 1), endFlag := true }
  else { s with row := BitVec.ofNat 3 t }

/-- `Advance()`: right by `scale` cells, with the wrap at 20 (R152). -/
def advance (s : State) : State :=
  let c := s.column.toNat + s.scale.toNat
  if c ≥ textCols then rowAdvance { s with column := 0 }
  else { s with column := BitVec.ofNat 5 c }

/-- `column <- 0; RowAdvance()`: a newline byte and LNBRK alike (R153, R154). -/
def lineBreak (s : State) : State := rowAdvance { s with column := 0 }

/-- The glyph index of the blank drawn for an OutOfRange byte (R153). -/
def blankGlyph : Nat := 0

/-- What PUTC does with a resolver result, after `lastByte` is written (R153). -/
def actOnResult (r : Resolved) (s : State) : State :=
  match r with
  | .newline => lineBreak s
  | .suppress => s
  | .glyph g => advance (render s g)
  | .outOfRange => advance (render (raise .oor s) blankGlyph)

/-- PUTC b (R153): resolve against the old `lastByte`, record the raw byte (R80), act on the result. A
configuration with an ill-formed FONT is refused (R137). -/
def execPutc (b : Byte) (s : State) : Host.Outcome State Fault Refusal :=
  if s.cfg.wf then
    .next (actOnResult (resolve s.cfg.substAsCode b s.lastByte) { s with lastByte := b })
  else .refused .illFormedConfig

/-- LNBRK (R154): as a newline byte, but `lastByte` is unchanged. -/
def execLnbrk (s : State) : Host.Outcome State Fault Refusal := .next (lineBreak s)

/-- SETCUR col, row (R155): clamped, endFlag cleared, no bus event. -/
def execSetcur (col row : Byte) (s : State) : Host.Outcome State Fault Refusal :=
  .next { s with column := clampColumn col, row := clampRow (pages s) row, endFlag := false }

/-- SETSCALE s (R156): 1 or 2, any other value raises ILL and changes nothing else (R54). -/
def execSetscale (v : Byte) (s : State) : Host.Outcome State Fault Refusal :=
  if v = 1#8 then .next { s with scale := .one }
  else if v = 2#8 then .next { s with scale := .two }
  else .next (raise .ill s)

/-- SETINV i (R157): 0 or 1, any other value raises ILL and changes nothing else (R54). -/
def execSetinv (i : Byte) (s : State) : Host.Outcome State Fault Refusal :=
  if i = 0#8 then .next { s with inverse := false }
  else if i = 1#8 then .next { s with inverse := true }
  else .next (raise .ill s)

/-- NOP (R158). -/
def execNop (s : State) : Host.Outcome State Fault Refusal := .next s

/-- CLRST (R159): endFlag and BUSY are unchanged. -/
def execClrst (s : State) : Host.Outcome State Fault Refusal := .next (clearConditions s)

end Sys2Proof.Machine
end

