-- ==== Sys2Proof/Machine/Framebuffer.lean ====
section
/-! DEFINITION. The two commands of the framebuffer controller: CLEAR (R109) and FLUSH (R110). Its write primitives
are in `Machine/Ops.lean`. -/

namespace Sys2Proof.Machine

/-- `for i in 0..FB_SIZE-1: SB[i] <- 0x00` (R109). -/
def shadowClear (s : State) : State :=
  { s with sb := s.sb.writeAll ((List.range (fbSize s)).map fun i => (i, 0#8)) }

/-- The effect of CLEAR: the shadow buffer where there is one, then the panel in every mode (R109). -/
def clearAll (s : State) : State :=
  panelTxAll (if hasShadow s then shadowClear s else s) (List.replicate (fbSize s) 0#8)

/-- CLEAR (R109). -/
def execClear (s : State) : Host.Outcome State Fault Refusal := .next (clearAll s)

/-- The effect of FLUSH: where there is a shadow buffer, all of it goes as one transaction, in index order; where
there is none, nothing (R110). -/
def flushShadow (s : State) : State :=
  if hasShadow s then panelTxAll s ((List.range (fbSize s)).map (sbByte s)) else s

/-- FLUSH (R110). -/
def execFlush (s : State) : Host.Outcome State Fault Refusal := .next (flushShadow s)

end Sys2Proof.Machine
end

