-- ==== Sys2Proof/Machine/Graphics.lean ====
section
/-! DEFINITION. The graphics primitives: the point plot engine (R180 to R183) and the Bresenham line engine
(R190 to R196). The line engine first lists the points it calls `Dot` on, then plots them in order; it keeps no
state of its own. -/

namespace Sys2Proof.Machine

/-- `Dot(x, y)`: out of bounds it is a silent no-op (R180). -/
def dot (s : State) (x y : Int) : State :=
  if x < 0 ∨ x ≥ panelWidth ∨ y < 0 ∨ y ≥ panelHeight s then s else setPixel s x y

/-- DOT x, y (R180). -/
def execDot (x y : Int) (s : State) : Host.Outcome State Fault Refusal := .next (dot s x y)

/-- The coordinates a fast path visits: from `a` toward `b`, `b` left out (R191, R192). -/
def fastPath (a b : Int) : List Int :=
  if a < b then (List.range (b - a).toNat).map fun k => a + (k : Int)
  else (List.range (a - b).toNat).map fun k => a - (k : Int)

/-- The sign step toward the far endpoint: +1 if `a < b`, else -1 (R193). -/
def signStep (a b : Int) : Int := if a < b then 1 else -1

/-- The working registers of the general path while one LINE runs (R193). -/
structure LineRegs where
  x : Int
  y : Int
  err : Int
  deriving DecidableEq, Repr

/-- One pass of the loop body after its exit test: both tests use the same `e2` (R193). -/
def bresenhamStep (dx dy sx sy : Int) (r : LineRegs) : LineRegs :=
  let e2 := 2 * r.err
  let r := if e2 > -dy then { r with err := r.err - dy, x := r.x + sx } else r
  if e2 < dx then { r with err := r.err + dx, y := r.y + sy } else r

/-- The passes of the loop, each with the registers it plots from, until the exit at (x1, y1) (R193). `fuel` bounds
the recursion; the exit comes first (R195; log 14). -/
def bresenhamLoop (dx dy sx sy x1 y1 : Int) : Nat → LineRegs → List LineRegs
  | 0, _ => []
  | fuel + 1, r =>
    if r.x = x1 ∧ r.y = y1 then [r]
    else r :: bresenhamLoop dx dy sx sy x1 y1 fuel (bresenhamStep dx dy sx sy r)

/-- The registers of every pass of the general path (R193). -/
def generalPasses (x0 y0 x1 y1 : Int) : List LineRegs :=
  let dx : Int := (x1 - x0).natAbs
  let dy : Int := (y1 - y0).natAbs
  bresenhamLoop dx dy (signStep x0 x1) (signStep y0 y1) x1 y1 (dx.toNat + dy.toNat + 1) ⟨x0, y0, dx - dy⟩

/-- The points LINE calls `Dot` on, in order: the vertical path is tested first, then the horizontal one (R190). -/
def linePoints (x0 y0 x1 y1 : Int) : List (Int × Int) :=
  if x0 = x1 then (fastPath y0 y1).map fun y => (x0, y)
  else if y0 = y1 then (fastPath x0 x1).map fun x => (x, y0)
  else (generalPasses x0 y0 x1 y1).map fun r => (r.x, r.y)

/-- `Dot` at each point, in order. -/
def dots (s : State) (ps : List (Int × Int)) : State := ps.foldl (fun s q => dot s q.1 q.2) s

/-- LINE x0, y0, x1, y1 (R190). -/
def execLine (x0 y0 x1 y1 : Int) (s : State) : Host.Outcome State Fault Refusal :=
  .next (dots s (linePoints x0 y0 x1 y1))

end Sys2Proof.Machine
end

