-- ==== Sys2Proof/Machine/Reserved.lean ====
section
/-! DEFINITION. The reserved opcodes 0x0B to 0xFF (R55): a one-byte command whose only effect is to raise ILL, one
meaning per row of the opcode table. -/

namespace Sys2Proof.Machine

/-- The opcode 0x0B (R55). -/
def execReserved0B (s : State) : Host.Outcome State Fault Refusal := .next (raise .ill s)

/-- The opcodes 0x0C to 0x0F (R55). -/
def execReserved0C (_low : BitVec 2) (s : State) : Host.Outcome State Fault Refusal := .next (raise .ill s)

/-- The opcodes 0x10 to 0x1F (R55). -/
def execReserved10 (_low : BitVec 4) (s : State) : Host.Outcome State Fault Refusal := .next (raise .ill s)

/-- The opcodes 0x20 to 0x3F (R55). -/
def execReserved20 (_low : BitVec 5) (s : State) : Host.Outcome State Fault Refusal := .next (raise .ill s)

/-- The opcodes 0x40 to 0x7F (R55). -/
def execReserved40 (_low : BitVec 6) (s : State) : Host.Outcome State Fault Refusal := .next (raise .ill s)

/-- The opcodes 0x80 to 0xFF (R55). -/
def execReserved80 (_low : BitVec 7) (s : State) : Host.Outcome State Fault Refusal := .next (raise .ill s)

end Sys2Proof.Machine
end

