-- ==== Sys2Proof/Machine/Dispatch.lean ====
section
/-! DEFINITION. `Execute(op, operands)` of R57: one arm per command. -/

namespace Sys2Proof.Machine

def exec (i : Instr) (s : State) : Host.Outcome State Fault Refusal :=
  match i with
  | .nop => Sys2Proof.Machine.execNop s
  | .putc b => Sys2Proof.Machine.execPutc b s
  | .lnbrk => Sys2Proof.Machine.execLnbrk s
  | .setcur col row => Sys2Proof.Machine.execSetcur col row s
  | .setscale v => Sys2Proof.Machine.execSetscale v s
  | .setinv b => Sys2Proof.Machine.execSetinv b s
  | .clear => Sys2Proof.Machine.execClear s
  | .flush => Sys2Proof.Machine.execFlush s
  | .dot x y => Sys2Proof.Machine.execDot x y s
  | .line x0 y0 x1 y1 => Sys2Proof.Machine.execLine x0 y0 x1 y1 s
  | .clrst => Sys2Proof.Machine.execClrst s
  | .reserved0B => Sys2Proof.Machine.execReserved0B s
  | .reserved0C low => Sys2Proof.Machine.execReserved0C low s
  | .reserved10 low => Sys2Proof.Machine.execReserved10 low s
  | .reserved20 low => Sys2Proof.Machine.execReserved20 low s
  | .reserved40 low => Sys2Proof.Machine.execReserved40 low s
  | .reserved80 low => Sys2Proof.Machine.execReserved80 low s

end Sys2Proof.Machine
end

