-- ==== Sys2Proof/Machine/HostPort.lean ====
section
/-! DEFINITION. What the host does besides sending commands: it reads the host read port (R216) and it resets the
block (R230, R231). Neither is a command, so neither is a step; a read completes between two commands. -/

namespace Sys2Proof.Machine

/-- The host read port: address 0 STATUS, address 1 CFG, 2..255 zero. A read changes no state (R216, R18). -/
def hostRead (s : State) (addr : Byte) : Byte :=
  if addr = 0#8 then statusReg s
  else if addr = 1#8 then cfgReg s.cfg
  else 0#8

/-- A reset at any time, with the configuration the block then takes (R230, R231). It abandons a partial command
(R57). The bytes the host still offers are the host's, and the draws of SB and PM are fresh (log 6). -/
def State.hardReset (s : State) (c : Config) : State :=
  { State.resetWith c with input := s.input, resets := s.resets + 1 }

end Sys2Proof.Machine
end

