-- ==== Sys2Proof/Decode.lean ====
section
/-! DEFINITION. The command encoding (R50 to R58): the length of a command, the decoder of a byte sequence, and the
encoder. Decoding is total; a sequence that does not begin with a whole command is rejected by name. -/

namespace Sys2Proof

/-- Why a byte sequence does not begin with a whole command. -/
inductive DecodeError where
  /-- There is no opcode byte. -/
  | noBytes
  /-- The stream ends inside the command whose opcode byte this is (U18). -/
  | truncated (op : Byte)
  deriving DecidableEq, Repr

/-- `len(op)`: the command's total length, by its opcode byte alone (R50, R51, R55). -/
def commandLength (op : Byte) : Nat :=
  if op = 0x01#8 then 2
  else if op = 0x03#8 then 3
  else if op = 0x04#8 then 2
  else if op = 0x05#8 then 2
  else if op = 0x08#8 then 5
  else if op = 0x09#8 then 9
  else 1

/-- The value of an `i16` operand sent low byte first: `sext_16({hi, lo})` (R53). -/
def i16OfBytes (lo hi : Byte) : Int := (hi ++ lo : Half).toInt

/-- The low byte of an `i16` operand (R53). -/
def i16Low (v : Int) : Byte := (BitVec.ofInt 16 v).extractLsb' 0 8

/-- The high byte of an `i16` operand (R53). -/
def i16High (v : Int) : Byte := (BitVec.ofInt 16 v).extractLsb' 8 8

/-- The two bytes of an `i16` operand, in the order they are sent (R53). -/
def i16Bytes (v : Int) : List Byte := [i16Low v, i16High v]

/-- The reserved command of an opcode byte 0x0B to 0xFF, by the six rows of the table (R55). -/
def decodeReserved (op : Byte) : Instr :=
  if op = 0x0B#8 then .reserved0B
  else if op &&& 0xFC#8 = 0x0C#8 then .reserved0C (op.extractLsb' 0 2)
  else if op &&& 0xF0#8 = 0x10#8 then .reserved10 (op.extractLsb' 0 4)
  else if op &&& 0xE0#8 = 0x20#8 then .reserved20 (op.extractLsb' 0 5)
  else if op &&& 0xC0#8 = 0x40#8 then .reserved40 (op.extractLsb' 0 6)
  else .reserved80 (op.extractLsb' 0 7)

/-- The operands of a one-byte operand command (format F1 of R50). -/
def decodeU8 (op : Byte) (mk : Byte → Instr) : List Byte → Except DecodeError (Instr × List Byte)
  | a :: rest => .ok (mk a, rest)
  | _ => .error (.truncated op)

/-- The operands of a command of two bytes (format F2 of R50). -/
def decodeU8U8 (op : Byte) (mk : Byte → Byte → Instr) : List Byte → Except DecodeError (Instr × List Byte)
  | a :: b :: rest => .ok (mk a b, rest)
  | _ => .error (.truncated op)

/-- The operands of a command of two coordinates (format P2 of R50). -/
def decodeP2 (op : Byte) (mk : Int → Int → Instr) : List Byte → Except DecodeError (Instr × List Byte)
  | xl :: xh :: yl :: yh :: rest => .ok (mk (i16OfBytes xl xh) (i16OfBytes yl yh), rest)
  | _ => .error (.truncated op)

/-- The operands of a command of four coordinates (format P4 of R50). -/
def decodeP4 (op : Byte) (mk : Int → Int → Int → Int → Instr) :
    List Byte → Except DecodeError (Instr × List Byte)
  | x0l :: x0h :: y0l :: y0h :: x1l :: x1h :: y1l :: y1h :: rest =>
    .ok (mk (i16OfBytes x0l x0h) (i16OfBytes y0l y0h) (i16OfBytes x1l x1h) (i16OfBytes y1l y1h), rest)
  | _ => .error (.truncated op)

/-- The command that an opcode byte begins, with the bytes that follow it (R51, R55). -/
def decodeOp (op : Byte) (rest : List Byte) : Except DecodeError (Instr × List Byte) :=
  if op = 0x00#8 then .ok (.nop, rest)
  else if op = 0x01#8 then decodeU8 op .putc rest
  else if op = 0x02#8 then .ok (.lnbrk, rest)
  else if op = 0x03#8 then decodeU8U8 op .setcur rest
  else if op = 0x04#8 then decodeU8 op .setscale rest
  else if op = 0x05#8 then decodeU8 op .setinv rest
  else if op = 0x06#8 then .ok (.clear, rest)
  else if op = 0x07#8 then .ok (.flush, rest)
  else if op = 0x08#8 then decodeP2 op .dot rest
  else if op = 0x09#8 then decodeP4 op .line rest
  else if op = 0x0A#8 then .ok (.clrst, rest)
  else .ok (decodeReserved op, rest)

/-- The first command of a byte sequence and the bytes after it (R58: total on any bytes). -/
def decode : List Byte → Except DecodeError (Instr × List Byte)
  | [] => .error .noBytes
  | op :: rest => decodeOp op rest

/-- A byte sequence that is exactly one command. -/
def decodeExact (bs : List Byte) : Option Instr :=
  match decode bs with
  | .ok (i, []) => some i
  | _ => none

/-- The bytes of a command, as R50 to R53 lay them out. -/
def encode : Instr → List Byte
  | .nop => [0x00#8]
  | .putc b => [0x01#8, b]
  | .lnbrk => [0x02#8]
  | .setcur col row => [0x03#8, col, row]
  | .setscale s => [0x04#8, s]
  | .setinv i => [0x05#8, i]
  | .clear => [0x06#8]
  | .flush => [0x07#8]
  | .dot x y => 0x08#8 :: (i16Bytes x ++ i16Bytes y)
  | .line x0 y0 x1 y1 => 0x09#8 :: (i16Bytes x0 ++ i16Bytes y0 ++ i16Bytes x1 ++ i16Bytes y1)
  | .clrst => [0x0A#8]
  | .reserved0B => [0x0B#8]
  | .reserved0C low => [0b000011#6 ++ low]
  | .reserved10 low => [0b0001#4 ++ low]
  | .reserved20 low => [0b001#3 ++ low]
  | .reserved40 low => [0b01#2 ++ low]
  | .reserved80 low => [0b1#1 ++ low]

/-- The nine bytes that hold the longest command, from the number of a table word: bit 0 of `w` is bit 0 of the
first byte, and every bit from `nbits` on is 0. -/
def tableWordBytes (nbits w : Nat) : List Byte :=
  (List.range 9).map fun k => BitVec.ofNat 8 ((w % 2 ^ nbits) >>> (8 * k))

/-- The instruction the decoder reads from the table word `w` of `nbits` bits. -/
def decodeTableWord (nbits w : Nat) : Option Instr :=
  match decode (tableWordBytes nbits w) with
  | .ok (i, _) => some i
  | .error _ => none

end Sys2Proof
end

