-- ==== Sys2Proof/Machine/Parser.lean ====
section
/-! DEFINITION. The command port: the parser that takes one byte at a time (R57), what the block fetches next, and
how the host offers bytes. -/

namespace Sys2Proof.Machine

/-- What the parser does with an accepted byte: its next state, and the opcode and operands to execute if the byte
completed a command (R57). -/
structure Accepted where
  parse : Parse
  run : Option (Byte × List Byte)
  deriving DecidableEq, Repr

/-- The parser's transition on an accepted byte `c` (R57). Execute runs with `parse = Idle`. -/
def acceptByte (p : Parse) (c : Byte) : Accepted :=
  match p with
  | .idle =>
    if commandLength c = 1 then ⟨.idle, some (c, [])⟩
    else ⟨.collect c (commandLength c - 1) [], none⟩
  | .collect op need ops =>
    if need = 1 then ⟨.idle, some (op, ops ++ [c])⟩
    else ⟨.collect op (need - 1) (ops ++ [c]), none⟩

/-- What the block does next. -/
inductive Fetched where
  /-- The configuration is one the block refuses. -/
  | refuse (r : Refusal)
  /-- No byte is offered: the block waits (R230). -/
  | wait
  /-- A byte was accepted and the command is not whole yet. -/
  | more (s : State)
  /-- A byte was accepted and completes this command, to be executed in this state. -/
  | command (i : Instr) (s : State)
  /-- The parser's bytes are no command. -/
  | broken (f : Fault)
  deriving DecidableEq, Repr

/-- The block accepts the next offered byte (R57). -/
def fetch (s : State) : Fetched :=
  if s.cfg.wf then
    match s.input with
    | [] => .wait
    | c :: rest =>
      let a := acceptByte s.parse c
      let s' := { s with parse := a.parse, input := rest }
      match a.run with
      | none => .more s'
      | some (op, ops) =>
        match decodeExact (op :: ops) with
        | some i => .command i s'
        | none => .broken .parserInconsistent
  else .refuse .illFormedConfig

/-- The command of an opcode byte and the bytes after it, loaded so that the next step runs it: a one-byte command is
the next byte offered, and of a longer one all bytes but the last have been accepted (log 1). -/
def loadCommand (s : State) (op : Byte) (rest : List Byte) : State :=
  if commandLength op = 1 then { s with parse := .idle, input := op :: s.input }
  else
    { s with
      parse := .collect op 1 (rest.take (commandLength op - 2))
      input := rest.getD (commandLength op - 2) 0#8 :: s.input }

/-- `loadCommand` on the bytes of a command. -/
def loadBytes (s : State) (bs : List Byte) : State :=
  match bs with
  | [] => s
  | op :: rest => loadCommand s op rest

/-- The host offers bytes on the command port (R57, R216). -/
def State.send (s : State) (bs : List Byte) : State := { s with input := s.input ++ bs }

/-- The commands a parser makes of a byte sequence, and the parser state at its end (R58). Bytes that are no command
give nothing; from Idle there are none. -/
def parseStream : Parse → List Byte → List Instr × Parse
  | p, [] => ([], p)
  | p, c :: rest =>
    let a := acceptByte p c
    let r := parseStream a.parse rest
    match a.run with
    | none => r
    | some (op, ops) => ((decodeExact (op :: ops)).toList ++ r.1, r.2)

end Sys2Proof.Machine
end

