-- ==== Sys2Proof/Machine/Step.lean ====
section
/-! DEFINITION. One step of the block: it accepts one byte on its command port, and the step that accepts the last
byte of a command runs the command to completion (R38, R57). -/

namespace Sys2Proof.Machine

/-- Three outcomes: a next state, a fault, a refusal. With no byte offered the block waits, unchanged (R230, U18). -/
def step (s : State) : Host.Outcome State Fault Refusal :=
  match fetch s with
  | .refuse r => .refused r
  | .wait => .next s
  | .more s' => .next s'
  | .command i s' => exec i s'
  | .broken f => .fault f

/-- `s` with the command of the table word `w` loaded, so that the very next step runs it (log 1). -/
def State.withFetchWord (s : State) (nbits w : Nat) : State := loadBytes s (tableWordBytes nbits w)

end Sys2Proof.Machine
end

