-- ==== Sys2Proof/Machine/Assembler.lean ====
section
/-! DEFINITION. The assembler syntax of R59: one command per line, the operands as decimal or `0x` hexadecimal
integers, character literals for PUTC, and the pseudo-instructions PUTS, PRINTLN, HOME and PUTN. Strings and numbers
reach the block as one PUTC per byte (R161, R163). What R59 leaves open of the text form is log 16. -/

namespace Sys2Proof.Machine

/-- Why the assembler refuses a line. -/
inductive AsmError where
  | unknownMnemonic
  | badOperands
  | badNumber
  /-- An operand is outside its type's range (R59). -/
  | outOfRange
  deriving DecidableEq, Repr

/-- A line of assembly: a command or a pseudo-instruction (R59). -/
inductive AsmLine where
  | command (i : Instr)
  /-- `PUTS "s"`. -/
  | puts (s : List Byte)
  /-- `PRINTLN "s"`. -/
  | println (s : List Byte)
  /-- `HOME`. -/
  | home
  /-- `PUTN <bytes>`. -/
  | putn (digits : List Byte)
  deriving DecidableEq, Repr

/-- The commands a line stands for (R59, R161, R163). -/
def expandLine : AsmLine → List Instr
  | .command i => [i]
  | .puts s => s.map .putc
  | .println s => s.map .putc ++ [.lnbrk]
  | .home => [.setcur 0 0]
  | .putn digits => digits.map .putc

/-- The bytes of a program: every line's commands, encoded by R50 to R53. -/
def assembleLines (ls : List AsmLine) : List Byte := (ls.flatMap expandLine).flatMap encode

/-- The characters of a line without the spaces before the first and after the last other one. -/
def trimSpaces (cs : List Char) : List Char :=
  ((cs.dropWhile (· == ' ')).reverse.dropWhile (· == ' ')).reverse

/-- The parts of a line between commas. -/
def splitCommas : List Char → List (List Char)
  | [] => [[]]
  | c :: cs =>
    if c = ',' then [] :: splitCommas cs
    else match splitCommas cs with
      | [] => [[c]]
      | p :: ps => (c :: p) :: ps

/-- The operand texts after a mnemonic. -/
def operandTexts (cs : List Char) : List (List Char) :=
  if trimSpaces cs = [] then [] else (splitCommas cs).map trimSpaces

/-- The value of a digit in a base up to 16. -/
def digitValue (base : Nat) (c : Char) : Option Nat :=
  let v :=
    if '0' ≤ c ∧ c ≤ '9' then c.toNat - '0'.toNat
    else if 'a' ≤ c ∧ c ≤ 'f' then c.toNat - 'a'.toNat + 10
    else if 'A' ≤ c ∧ c ≤ 'F' then c.toNat - 'A'.toNat + 10
    else base
  if v < base then some v else none

/-- The value of a non-empty run of digits. -/
def digitsValue (base : Nat) (cs : List Char) : Option Nat :=
  if cs = [] then none
  else cs.foldl (fun acc c => do let a ← acc; let d ← digitValue base c; pure (a * base + d)) (some 0)

/-- A decimal or `0x` hexadecimal integer without a sign. -/
def natText : List Char → Option Nat
  | '0' :: 'x' :: cs => digitsValue 16 cs
  | cs => digitsValue 10 cs

/-- A decimal or `0x` hexadecimal integer (R59). -/
def intText (cs : List Char) : Except AsmError Int :=
  match cs with
  | '-' :: ds => match natText ds with
    | some n => .ok (-(n : Int))
    | none => .error .badNumber
  | ds => match natText ds with
    | some n => .ok n
    | none => .error .badNumber

/-- A `u8` operand; a value outside 0..255 is refused (R59). -/
def u8Text (cs : List Char) : Except AsmError Byte := do
  let v ← intText cs
  if 0 ≤ v ∧ v ≤ 255 then pure (BitVec.ofInt 8 v) else .error .outOfRange

/-- An `i16` operand; a value outside -32768..32767 is refused (R59). -/
def i16Text (cs : List Char) : Except AsmError Int := do
  let v ← intText cs
  if fitsI16 v then pure v else .error .outOfRange

/-- The byte of a character; one that is no single byte is refused. -/
def charByte (c : Char) : Except AsmError Byte :=
  if c.toNat ≤ 255 then .ok (BitVec.ofNat 8 c.toNat) else .error .outOfRange

/-- PUTC's operand: a `u8`, or a character literal in single quotes (R59). -/
def putcText (cs : List Char) : Except AsmError Byte :=
  match trimSpaces cs with
  | ['\'', c, '\''] => charByte c
  | ds => u8Text ds

/-- The bytes of a string in double quotes. -/
def stringText (cs : List Char) : Except AsmError (List Byte) :=
  match trimSpaces cs with
  | '"' :: rest =>
    match rest.reverse with
    | '"' :: body => body.reverse.mapM charByte
    | _ => .error .badOperands
  | _ => .error .badOperands

/-- The line of a mnemonic and its operand texts, operands separated by commas (R59). -/
def lineOfOperands (mnemonic : String) (ops : List (List Char)) : Except AsmError AsmLine :=
  match mnemonic, ops with
  | "NOP", [] => .ok (.command .nop)
  | "LNBRK", [] => .ok (.command .lnbrk)
  | "SETCUR", [a, b] => do pure (.command (.setcur (← u8Text a) (← u8Text b)))
  | "SETSCALE", [a] => do pure (.command (.setscale (← u8Text a)))
  | "SETINV", [a] => do pure (.command (.setinv (← u8Text a)))
  | "CLEAR", [] => .ok (.command .clear)
  | "FLUSH", [] => .ok (.command .flush)
  | "DOT", [a, b] => do pure (.command (.dot (← i16Text a) (← i16Text b)))
  | "LINE", [a, b, c, d] => do
    pure (.command (.line (← i16Text a) (← i16Text b) (← i16Text c) (← i16Text d)))
  | "CLRST", [] => .ok (.command .clrst)
  | "HOME", [] => .ok .home
  | "PUTN", ds => do pure (.putn (← ds.mapM u8Text))
  | m, _ =>
    if ["NOP", "LNBRK", "SETCUR", "SETSCALE", "SETINV", "CLEAR", "FLUSH", "DOT", "LINE", "CLRST", "HOME"].contains m
    then .error .badOperands else .error .unknownMnemonic

/-- One line of assembly text (R59). -/
def parseLine (text : List Char) : Except AsmError AsmLine :=
  let cs := trimSpaces text
  let mnemonic := String.ofList (cs.takeWhile (· != ' '))
  let rest := cs.dropWhile (· != ' ')
  if mnemonic = "PUTC" then do pure (.command (.putc (← putcText rest)))
  else if mnemonic = "PUTS" then do pure (.puts (← stringText rest))
  else if mnemonic = "PRINTLN" then do pure (.println (← stringText rest))
  else lineOfOperands mnemonic (operandTexts rest)

/-- The bytes of a program text, one line each. -/
def assembleText (ls : List (List Char)) : Except AsmError (List Byte) := do
  pure (assembleLines (← ls.mapM parseLine))

end Sys2Proof.Machine
end

