-- ==== Sys2Proof/Safety.lean ====
section
/-! DEFINITION. What counts as a safe state and a safe run, in the terms the statements use: the legal states, what
the bus trace says of the panel, the pixels a store shows, and runs of several commands. -/

namespace Sys2Proof.Machine

/-- The parser holds nothing, or the opcode and some operand bytes of a command that needs more (R22, R57). -/
def Parse.legal : Parse → Bool
  | .idle => true
  | .collect op need ops => decide (1 ≤ need ∧ ops.length + need + 1 = commandLength op)

/-- A bus event the block may issue: a write transaction that meets the preconditions of R36, or a read of a byte of
the panel in HardwareBuffer mode (R37). -/
def BusEvent.legal (c : Config) : BusEvent → Bool
  | .tx xa xb pa pb data =>
    decide (xa ≤ xb ∧ xb < panelWidth ∧ pa ≤ pb ∧ pb < c.pageCount.toNat ∧
      data.length = (xb - xa + 1) * (pb - pa + 1))
  | .rd x p _ => decide (c.mode = .hardwareBuffer ∧ x < panelWidth ∧ p < c.pageCount.toNat)

/-- The legal states: every register in its range and every store in its canonical form. -/
structure State.Legal (s : State) : Prop where
  /-- R11. -/
  column_le : s.column.toNat ≤ 19
  /-- R12. -/
  row_lt : s.row.toNat < pages s
  /-- The canonical form of the stores (log 5). -/
  pm_wf : s.pm.wf = true
  sb_wf : s.sb.wf = true
  /-- R30, R42: no byte outside the stores. -/
  pm_within : s.pm.within (fbSize s) = true
  sb_within : s.sb.within (fbSize s) = true
  /-- R19: no shadow buffer outside SoftwareBuffer mode. -/
  sb_mode : hasShadow s = false → s.sb = []
  /-- R22. -/
  parse_legal : s.parse.legal = true
  /-- R36, R37. -/
  trace_legal : ∀ e ∈ s.trace, e.legal s.cfg = true

/-- What the write transactions of a trace leave in panel memory, for PAGE_COUNT = `n` (R36). -/
def replayTrace (n : Nat) (t : List BusEvent) : Memory :=
  t.foldl
    (fun m e => match e with
      | .tx xa _ pa pb data => m.writeAll (windowCells n xa pa pb data)
      | .rd _ _ _ => m) []

/-- Panel memory is what the write transactions of the trace have written since reset (R20). -/
def panelIsTrace (s : State) : Prop := s.pm = replayTrace (pages s) s.trace

/-- Every read of the trace returned the byte the last transaction before it left there, or the draw PM_INIT if none
had written it (R44). -/
def readsSeeLastWrite (s : State) : Prop :=
  ∀ before x p v after, s.trace = before ++ BusEvent.rd x p v :: after →
    v = ((replayTrace (pages s) before).read? (fbIndex (pages s) x p)).getD
          (Config.pmInit s.resets (fbIndex (pages s) x p))

/-- SB and PM hold the same bytes (R45). -/
def storesAgree (s : State) : Prop := ∀ i, i < fbSize s → pmByte s i = sbByte s i

/-- Pixel (x, y) is lit on the panel (R32, R33). -/
def pmPixel (s : State) (x y : Int) : Bool := (pmByte s (pixelIndex s x y)).getLsbD (y.toNat % 8)

/-- Pixel (x, y) is lit in the shadow buffer (R32, R33). -/
def sbPixel (s : State) (x y : Int) : Bool := (sbByte s (pixelIndex s x y)).getLsbD (y.toNat % 8)

/-- `v` is a 32-bit signed value (R194). -/
abbrev fitsI32 (v : Int) : Prop := -2147483648 ≤ v ∧ v ≤ 2147483647

/-- Every lit bit of `old` is lit in `new`. -/
def keepsLit (old new : Byte) : Prop := old &&& new = old

/-- `t` is `s` but for the pixel stores and the trace. -/
def pixelOnly (s t : State) : Prop := t = { s with sb := t.sb, pm := t.pm, trace := t.trace }

/-- `t` is `s` but for the cursor: column, row and endFlag. -/
def cursorOnly (s t : State) : Prop := t = { s with column := t.column, row := t.row, endFlag := t.endFlag }

/-- A program: commands run in order, each to completion (R24, R44). -/
def execAll : List Instr → State → Host.Outcome State Fault Refusal
  | [], s => .next s
  | i :: rest, s =>
    match exec i s with
    | .next t => execAll rest t
    | .fault f => .fault f
    | .refused r => .refused r

/-- `s` and `t` differ at most in their pixel stores, their traces and the draws of their stores. -/
def sameButPixels (s t : State) : Prop :=
  t = { s with sb := t.sb, pm := t.pm, trace := t.trace, resets := t.resets }

/-- `s` and `t` show the same panel and hold the same shadow buffer. -/
def samePixels (s t : State) : Prop :=
  ∀ i, i < fbSize s → pmByte s i = pmByte t i ∧ (hasShadow s = true → sbByte s i = sbByte t i)

end Sys2Proof.Machine
end

