-- ==== Sys2Proof/Certificates/Slice0/Obligations.lean ====
section
/-! DEFINITION. The statements for the provers. Each docstring names the rule a statement formalises. -/

open Sys2Proof Sys2Proof.Machine

/-! ### Encoding and the command port -/

/-- Decode and encode agree: every well-formed command, followed by any bytes, decodes to itself (R50 to R55). -/
def Obligations.DecodeReturnsEncodedCommand : Prop :=
  ∀ (i : Instr) (rest : List Byte), i.wellFormed = true → decode (encode i ++ rest) = .ok (i, rest)

/-- No two byte sequences are read as one command: what the decoder reads is the encoding of what it answers, which
is well formed (R51, R55). -/
def Obligations.EncodeReturnsDecodedBytes : Prop :=
  ∀ (bs rest : List Byte) (i : Instr), decode bs = .ok (i, rest) →
    i.wellFormed = true ∧ encode i ++ rest = bs

/-- A few words written out from R50 to R55 decode to the commands they stand for. -/
def Obligations.WordsOfTheEncodingDecode : Prop :=
  decode [0x00#8] = .ok (.nop, []) ∧
  decode [0x01#8, 0x41#8] = .ok (.putc 0x41#8, []) ∧
  decode [0x03#8, 0x05#8, 0x01#8] = .ok (.setcur 0x05#8 0x01#8, []) ∧
  decode [0x08#8, 0xFF#8, 0xFF#8, 0xC8#8, 0x00#8] = .ok (.dot (-1) 200, []) ∧
  decode [0x09#8, 0xFE#8, 0xFF#8, 0x00#8, 0x00#8, 0x01#8, 0x00#8, 0x03#8, 0x00#8] = .ok (.line (-2) 0 1 3, []) ∧
  decode [0x0A#8, 0x06#8] = .ok (.clrst, [0x06#8]) ∧
  decode [0xFF#8, 0x08#8] = .ok (.reserved80 0x7F#7, [0x08#8])

/-- Every byte sequence splits into commands and a final partial command: what the parser makes of it, encoded again,
followed by the bytes of the partial command, is the sequence (R58). -/
def Obligations.StreamSplitsIntoCommands : Prop :=
  ∀ bs : List Byte, ∃ tail : List Byte,
    bs = (parseStream .idle bs).1.flatMap encode ++ tail ∧
    (((parseStream .idle bs).2 = .idle ∧ tail = []) ∨
      ∃ op need ops, (parseStream .idle bs).2 = .collect op need ops ∧ tail = op :: ops ∧
        1 ≤ need ∧ tail.length + need = commandLength op)

/-- The block waits while no byte is offered: nothing changes (R230). -/
def Obligations.BlockWaitsForAByte : Prop :=
  ∀ s : State, s.cfg.wf = true → s.input = [] → step s = .next s

/-- The two transitions of R57 that execute nothing: the opcode byte of a longer command is latched, and an operand
byte that is not the last is collected, whatever its value. -/
def Obligations.PortCollectsOperandBytes : Prop :=
  ∀ (s : State) (c : Byte) (rest : List Byte), s.cfg.wf = true → s.input = c :: rest →
    (s.parse = .idle → commandLength c ≠ 1 →
      step s = .next { s with parse := .collect c (commandLength c - 1) [], input := rest }) ∧
    (∀ op need ops, s.parse = .collect op need ops → need ≠ 1 →
      step s = .next { s with parse := .collect op (need - 1) (ops ++ [c]), input := rest })

/-- A step runs the decoded command: when the accepted byte completes a command, the step is `exec` of that command
in the state with the byte taken from the port and the parser idle (R57). -/
def Obligations.StepRunsTheDecodedCommand : Prop :=
  ∀ (s : State) (c : Byte) (rest : List Byte) (i : Instr), s.cfg.wf = true → s.input = c :: rest →
    (s.parse = .idle → decode [c] = .ok (i, []) →
      step s = exec i { s with parse := .idle, input := rest }) ∧
    (∀ op ops, s.parse = .collect op 1 ops → decode (op :: (ops ++ [c])) = .ok (i, []) →
      step s = exec i { s with parse := .idle, input := rest })

/-- From Idle, as many steps as a well-formed command has bytes run it, and leave the bytes after it on the port
(R38, R57). -/
def Obligations.RunExecutesTheEncodedCommand : Prop :=
  ∀ (s : State) (i : Instr) (rest : List Byte), s.cfg.wf = true → i.wellFormed = true → s.parse = .idle →
    s.input = encode i ++ rest →
    Sys2Proof.core.run (encode i).length s = exec i { s with input := rest }

/-- No step stops: with a well-formed FONT and a parser state that R57 leads to, every step answers a next state
(R210: every command runs to completion). -/
def Obligations.EveryStepGoesOn : Prop :=
  ∀ s : State, s.cfg.wf = true → s.parse.legal = true → ∃ t, step s = .next t

/-- A configuration is refused exactly when its FONT is ill formed: a spacer column is lit, or the table is too short
for the resolver (R6, U13). The refusal is the model's name for it (log 7). -/
def Obligations.IllFormedFontIsRefused : Prop :=
  ∀ s : State,
    (s.cfg.wf = true ↔ (∀ g ∈ s.cfg.font, g.col5 = 0#8) ∧
      (s.cfg.substAsCode = true → 159 ≤ s.cfg.font.length) ∧
      (s.cfg.substAsCode = false → 182 ≤ s.cfg.font.length)) ∧
    (s.cfg.wf = false → step s = .refused .illFormedConfig ∧
      ∀ b, exec (.putc b) s = .refused .illFormedConfig) ∧
    (s.cfg.wf = true → step s ≠ .refused .illFormedConfig ∧
      ∀ b, exec (.putc b) s ≠ .refused .illFormedConfig)

/-! ### Reset -/

/-- What reset leaves (R230), for every configuration and for a reset at any time: every register, STATUS and CFG, no
bus event, the pixel stores reading as their draws, and a block that runs nothing until a byte arrives. -/
def Obligations.ResetLeavesTheStatedValues : Prop :=
  ∀ (c : Config) (s t : State), t = State.resetWith c ∨ t = s.hardReset c →
    t.cfg = c ∧ t.column = 0 ∧ t.row = 0 ∧ t.scale = .one ∧ t.inverse = false ∧ t.lastByte = 0x00#8 ∧
    t.endFlag = false ∧ t.oor = false ∧ t.ill = false ∧ t.parse = .idle ∧ t.trace = [] ∧
    hostRead t 0#8 = 0x00#8 ∧ hostRead t 1#8 = cfgReg c ∧
    (c.wf = true → t.input = [] → step t = .next t) ∧
    ∀ i, pmByte t i = Config.pmInit t.resets i ∧ sbByte t i = Config.sbInit t.resets i

/-- The state after reset is legal, and its trace explains its panel memory. -/
def Obligations.ResetIsLegal : Prop :=
  State.reset.Legal ∧
  ∀ c : Config, (State.resetWith c).Legal ∧ panelIsTrace (State.resetWith c) ∧
    readsSeeLastWrite (State.resetWith c)

/-! ### Invariants and whole-machine rules -/

/-- Every step keeps a state legal: the cursor in range (R11, R12, R162), the stores in their canonical form and
inside their bounds (R31, R34), no shadow buffer outside SoftwareBuffer mode (R19), the parser in a state R57 leads
to, and no bus event that fails R36's preconditions. -/
def Obligations.StepKeepsTheStateLegal : Prop :=
  ∀ s t : State, s.Legal → step s = .next t → t.Legal

/-- Panel memory is at every step exactly what the write transactions of the trace have written (R20), and every bus
read returned what the last transaction before it had left (R44). -/
def Obligations.StepKeepsPanelExplainedByTrace : Prop :=
  ∀ s t : State, panelIsTrace s → readsSeeLastWrite s → step s = .next t →
    panelIsTrace t ∧ readsSeeLastWrite t

/-- No step changes the configuration, and so none changes what CFG reads (R25, R18). -/
def Obligations.StepKeepsTheConfiguration : Prop :=
  ∀ s t : State, step s = .next t → t.cfg = s.cfg ∧ hostRead t 1#8 = hostRead s 1#8

/-- With AUTO_SEND = 1 in SoftwareBuffer mode, a step that starts with PM equal to SB ends with PM equal to SB
(R45, R106). -/
def Obligations.AutoSendKeepsPanelEqualToShadow : Prop :=
  ∀ s t : State, s.cfg.mode = .softwareBuffer → s.cfg.autoSend = true → storesAgree s → step s = .next t →
    storesAgree t

/-- With AUTO_SEND = 0 in SoftwareBuffer mode, a command other than CLEAR and FLUSH changes neither the panel nor the
trace (R107, R45). -/
def Obligations.DeferredModeLeavesThePanelAlone : Prop :=
  ∀ (s t : State) (i : Instr), s.cfg.mode = .softwareBuffer → s.cfg.autoSend = false →
    i ≠ .clear → i ≠ .flush → exec i s = .next t → t.pm = s.pm ∧ t.trace = s.trace

/-- OR cannot erase: in HardwareBuffer mode no command but CLEAR darkens a pixel of the panel, and in SoftwareBuffer
mode none but CLEAR darkens a pixel of the shadow buffer (R239). -/
def Obligations.OnlyClearDarkensPixels : Prop :=
  ∀ (s t : State) (i : Instr), i ≠ .clear → exec i s = .next t →
    (s.cfg.mode = .hardwareBuffer → ∀ a, keepsLit (pmByte s a) (pmByte t a)) ∧
    (s.cfg.mode = .softwareBuffer → ∀ a, keepsLit (sbByte s a) (sbByte t a))

/-- The condition bits are sticky: no command but CLRST clears OOR or ILL (R17, R210, R211, R212). -/
def Obligations.OnlyClrstClearsConditions : Prop :=
  ∀ (s t : State) (i : Instr), i ≠ .clrst → exec i s = .next t →
    (s.oor = true → t.oor = true) ∧ (s.ill = true → t.ill = true)

/-- `lastByte` is the raw operand of the most recent PUTC, whatever its result, and no other command changes it
(R15, R80, R240). -/
def Obligations.OnlyPutcWritesLastByte : Prop :=
  ∀ (s t : State) (i : Instr), exec i s = .next t →
    (∀ b, i = .putc b → t.lastByte = b) ∧ ((∀ b, i ≠ .putc b) → t.lastByte = s.lastByte)

/-- `endFlag` is cleared by no command but SETCUR and set by none but PUTC and LNBRK (R16, R213). -/
def Obligations.EndFlagHasItsWritersOnly : Prop :=
  ∀ (s t : State) (i : Instr), exec i s = .next t →
    ((∀ col row, i ≠ .setcur col row) → s.endFlag = true → t.endFlag = true) ∧
    (s.endFlag = false → t.endFlag = true → i = .lnbrk ∨ ∃ b, i = .putc b)

/-- The table of R26: what each command leaves untouched. The parser and the offered bytes are no command's to
write. -/
def Obligations.CommandsWriteOnlyTheirState : Prop :=
  ∀ (s t : State) (i : Instr), exec i s = .next t →
    t.cfg = s.cfg ∧ t.parse = s.parse ∧ t.input = s.input ∧ t.resets = s.resets ∧
    ((∀ b, i ≠ .putc b) → i ≠ .lnbrk → (∀ c r, i ≠ .setcur c r) →
      t.column = s.column ∧ t.row = s.row ∧ t.endFlag = s.endFlag) ∧
    ((∀ b, i ≠ .putc b) → t.lastByte = s.lastByte) ∧
    ((∀ v, i ≠ .setscale v) → t.scale = s.scale) ∧
    ((∀ v, i ≠ .setinv v) → t.inverse = s.inverse) ∧
    ((∀ b, i ≠ .putc b) → i ≠ .clrst → t.oor = s.oor) ∧
    ((∀ v, i ≠ .setscale v) → (∀ v, i ≠ .setinv v) → i ≠ .clrst → i ≠ .reserved0B →
      (∀ l, i ≠ .reserved0C l) → (∀ l, i ≠ .reserved10 l) → (∀ l, i ≠ .reserved20 l) →
      (∀ l, i ≠ .reserved40 l) → (∀ l, i ≠ .reserved80 l) → t.ill = s.ill) ∧
    ((∀ b, i ≠ .putc b) → i ≠ .clear → (∀ x y, i ≠ .dot x y) → (∀ x y z w, i ≠ .line x y z w) →
      t.sb = s.sb ∧ (i ≠ .flush → t.pm = s.pm ∧ t.trace = s.trace)) ∧
    (s.cfg.mode ≠ .softwareBuffer → t.sb = s.sb)

/-- CLEAR erases all history of the pixels: two states that differ only in their pixel stores, traces and draws show
the same panel and hold the same shadow buffer after CLEAR and any further commands (S13, R109, R232). -/
def Obligations.ClearErasesPixelHistory : Prop :=
  ∀ (prog : List Instr) (s t s' : State), sameButPixels s t → execAll (.clear :: prog) s = .next s' →
    ∃ t', execAll (.clear :: prog) t = .next t' ∧ sameButPixels s' t' ∧ samePixels s' t'

/-! ### Registers of the host read port -/

/-- STATUS, bit by bit, at host-read address 0; the reserved bits read 0, and it reads 0x00 after reset (R17). -/
def Obligations.StatusMirrorsItsBits : Prop :=
  (∀ s : State,
    (hostRead s 0#8).getLsbD 0 = s.endFlag ∧ (hostRead s 0#8).getLsbD 1 = s.oor ∧
    (hostRead s 0#8).getLsbD 2 = s.ill ∧ (hostRead s 0#8).getLsbD 3 = decide (s.parse ≠ .idle) ∧
    ∀ k, 4 ≤ k → (hostRead s 0#8).getLsbD k = false) ∧
  ∀ c : Config, hostRead (State.resetWith c) 0#8 = 0#8

/-- CFG, field by field, at host-read address 1; addresses 2..255 read 0x00 (R18, R216). -/
def Obligations.CfgReportsTheConfiguration : Prop :=
  ∀ s : State,
    (hostRead s 1#8).getLsbD 0 = decide (s.cfg.pageCount = .eight) ∧
    (hostRead s 1#8).extractLsb' 1 2 =
      (match s.cfg.mode with | .direct => 0b00#2 | .hardwareBuffer => 0b01#2 | .softwareBuffer => 0b10#2) ∧
    (hostRead s 1#8).getLsbD 3 = s.cfg.autoSend ∧
    (hostRead s 1#8).extractLsb' 4 4 = 0#4 ∧
    ∀ addr : Byte, 2 ≤ addr.toNat → hostRead s addr = 0x00#8

/-! ### Status and cursor commands -/

/-- NOP has no effect on any state or on the trace; as an operand byte, 0x00 is data (R158). -/
def Obligations.NopChangesNothing : Prop :=
  encode .nop = [0x00#8] ∧ (∀ s : State, exec .nop s = .next s) ∧
  ∀ (s : State) (op : Byte) (need : Nat) (ops rest : List Byte), s.cfg.wf = true →
    s.parse = .collect op need ops → need ≠ 1 → s.input = 0x00#8 :: rest →
    step s = .next { s with parse := .collect op (need - 1) (ops ++ [0x00#8]), input := rest }

/-- CLRST clears OOR and ILL; END and BUSY are unchanged (R159). -/
def Obligations.ClrstClearsOorAndIll : Prop :=
  encode .clrst = [0x0A#8] ∧
  ∀ s : State, exec .clrst s = .next { s with oor := false, ill := false } ∧
    statusReg { s with oor := false, ill := false } = statusReg s &&& 0x09#8

/-- SETSCALE: 1 and 2 set the scale; any other value raises ILL and changes nothing else (R156). -/
def Obligations.SetscaleSetsOrRaisesIll : Prop :=
  (∀ v, encode (.setscale v) = [0x04#8, v]) ∧
  ∀ s : State,
    exec (.setscale 1#8) s = .next { s with scale := .one } ∧
    exec (.setscale 2#8) s = .next { s with scale := .two } ∧
    ∀ v, v ≠ 1#8 → v ≠ 2#8 → exec (.setscale v) s = .next { s with ill := true }

/-- SETINV: 0 and 1 set `inverse`; any other value raises ILL and changes nothing else (R157). -/
def Obligations.SetinvSetsOrRaisesIll : Prop :=
  (∀ v, encode (.setinv v) = [0x05#8, v]) ∧
  ∀ s : State,
    exec (.setinv 0#8) s = .next { s with inverse := false } ∧
    exec (.setinv 1#8) s = .next { s with inverse := true } ∧
    ∀ v, v ≠ 0#8 → v ≠ 1#8 → exec (.setinv v) s = .next { s with ill := true }

/-- SETCUR clamps both operands, clears endFlag, and changes nothing else: no pixel, no bus event (R155). -/
def Obligations.SetcurClampsAndClearsEnd : Prop :=
  ∀ (s : State) (col row : Byte), encode (.setcur col row) = [0x03#8, col, row] ∧
    ∃ t, exec (.setcur col row) s = .next t ∧
    t.column.toNat = min col.toNat 19 ∧ t.row.toNat = min row.toNat (pages s - 1) ∧ t.endFlag = false ∧
    cursorOnly s t

/-- LNBRK: column 0, and a row advance that saturates at the last page and then sets endFlag (R151, R154). A PUTC of
byte 10 does the same and records the byte (R153, R71). -/
def Obligations.LineBreakAdvancesTheRow : Prop :=
  encode .lnbrk = [0x02#8] ∧
  ∀ s : State, ∃ t, exec .lnbrk s = .next t ∧
    t.column = 0 ∧ t.row.toNat = min (s.row.toNat + s.scale.toNat) (pages s - 1) ∧
    t.endFlag = (s.endFlag || decide (s.row.toNat + s.scale.toNat > pages s - 1)) ∧
    cursorOnly s t ∧
    (s.cfg.wf = true → exec (.putc 0x0A#8) s = .next { t with lastByte := 0x0A#8 })

/-- Repeated line breaks saturate at the last row and never pass it; endFlag is set as soon as one is clamped
(R160, S10). -/
def Obligations.RepeatedLineBreaksSaturate : Prop :=
  ∀ (s : State) (n : Nat), s.row.toNat < pages s → 0 < n →
    ∃ t, execAll (List.replicate n .lnbrk) s = .next t ∧ t.column = 0 ∧
      t.row.toNat = min (s.row.toNat + n * s.scale.toNat) (pages s - 1) ∧
      t.endFlag = (s.endFlag || decide (s.row.toNat + n * s.scale.toNat > pages s - 1)) ∧
      cursorOnly s t

/-- The reserved opcodes: each of the six rows raises ILL and does nothing else; a byte from 0x0B on, received in
Idle, is such a command whole, and the next byte is a new opcode; and the six rows match exactly those bytes (R55). -/
def Obligations.ReservedOpcodesRaiseIll : Prop :=
  (∀ s : State,
    exec .reserved0B s = .next { s with ill := true } ∧
    (∀ l, exec (.reserved0C l) s = .next { s with ill := true }) ∧
    (∀ l, exec (.reserved10 l) s = .next { s with ill := true }) ∧
    (∀ l, exec (.reserved20 l) s = .next { s with ill := true }) ∧
    (∀ l, exec (.reserved40 l) s = .next { s with ill := true }) ∧
    (∀ l, exec (.reserved80 l) s = .next { s with ill := true })) ∧
  (∀ (s : State) (op : Byte) (rest : List Byte), 0x0B ≤ op.toNat → s.cfg.wf = true → s.parse = .idle →
    s.input = op :: rest → step s = .next { s with ill := true, input := rest }) ∧
  (∀ op : Byte, 0x0B ≤ op.toNat ↔
    (op &&& 0xFF#8 = 0x0B#8 ∨ op &&& 0xFC#8 = 0x0C#8 ∨ op &&& 0xF0#8 = 0x10#8 ∨
      op &&& 0xE0#8 = 0x20#8 ∨ op &&& 0xC0#8 = 0x40#8 ∨ op &&& 0x80#8 = 0x80#8))

/-! ### CLEAR and FLUSH -/

/-- CLEAR zeroes the panel in every mode and the shadow buffer where there is one, in one transaction, and changes
nothing else (R109). -/
def Obligations.ClearZeroesTheStores : Prop :=
  encode .clear = [0x06#8] ∧
  ∀ s : State, ∃ t, exec .clear s = .next t ∧ pixelOnly s t ∧
    (∀ i, i < fbSize s → pmByte t i = 0x00#8) ∧
    (∀ i, fbSize s ≤ i → pmByte t i = pmByte s i) ∧
    (s.cfg.mode = .softwareBuffer →
      (∀ i, i < fbSize s → sbByte t i = 0x00#8) ∧ (∀ i, fbSize s ≤ i → sbByte t i = sbByte s i)) ∧
    (s.cfg.mode ≠ .softwareBuffer → t.sb = s.sb) ∧
    t.trace = s.trace ++ [.tx 0 127 0 (pages s - 1) (List.replicate (fbSize s) 0x00#8)]

/-- FLUSH copies the shadow buffer to the panel as one transaction in index order, whatever AUTO_SEND is; in the
other modes it has no effect (R110). -/
def Obligations.FlushCopiesShadowToPanel : Prop :=
  encode .flush = [0x07#8] ∧
  ∀ s : State,
    (s.cfg.mode = .softwareBuffer → ∃ t, exec .flush s = .next t ∧ pixelOnly s t ∧ t.sb = s.sb ∧
      (∀ i, i < fbSize s → pmByte t i = sbByte s i) ∧
      (∀ i, fbSize s ≤ i → pmByte t i = pmByte s i) ∧
      t.trace = s.trace ++ [.tx 0 127 0 (pages s - 1) ((List.range (fbSize s)).map (sbByte s))]) ∧
    (s.cfg.mode ≠ .softwareBuffer → exec .flush s = .next s)

/-! ### The resolver and the bit-stretch unit -/

/-- The ASCII path: bytes 32..127 map to b - 32 whatever the byte before, in both readings of the substitutes
(R72). -/
def Obligations.AsciiBytesResolveDirectly : Prop :=
  ∀ (asCode : Bool) (b last : Byte), 32 ≤ b.toNat → b.toNat ≤ 127 →
    resolve asCode b last = .glyph (b.toNat - 32)

/-- The map of single bytes with SUBST_AS_CODE = 1: newline, control bytes, the two extended buckets, lead bytes
(R71, R73, R76, R77, R79, R82). -/
def Obligations.ResolverMapsSingleBytes : Prop :=
  ∀ b last : Byte,
    (b.toNat = 10 → resolve true b last = .newline) ∧
    (b.toNat < 32 → b.toNat ≠ 10 → resolve true b last = .outOfRange) ∧
    (128 ≤ b.toNat → b.toNat ≤ 143 → (last, b) ≠ (0xD0#8, 0x81#8) → (last, b) ≠ (0xE2#8, 0x80#8) →
      resolve true b last = .glyph (b.toNat + 15)) ∧
    (144 ≤ b.toNat → b.toNat ≤ 191 → (last, b) ≠ (0xD1#8, 0x91#8) → (last, b) ≠ (0x80#8, 0x93#8) →
      resolve true b last = .glyph (b.toNat - 49)) ∧
    (192 ≤ b.toNat → resolve true b last = .suppress)

/-- The four digraphs, in both readings of the substitutes (R74, R75). -/
def Obligations.DigraphsResolveToSubstitutes : Prop :=
  resolve true 0x91#8 0xD1#8 = .glyph 132 ∧ resolve true 0x81#8 0xD0#8 = .glyph 100 ∧
  resolve true 0x80#8 0xE2#8 = .suppress ∧ resolve true 0x93#8 0x80#8 = .glyph 13 ∧
  resolve false 0x91#8 0xD1#8 = .glyph 181 ∧ resolve false 0x81#8 0xD0#8 = .glyph 149 ∧
  resolve false 0x80#8 0xE2#8 = .suppress ∧ resolve false 0x93#8 0x80#8 = .glyph 45

/-- Every glyph index the resolver answers is in the table of a well-formed FONT (R41, R83). -/
def Obligations.ResolvedGlyphsAreInTheFont : Prop :=
  ∀ (c : Config) (b last : Byte) (g : Nat), c.wf = true → resolve c.substAsCode b last = .glyph g →
    g < c.glyphCount ∧ (c.substAsCode = true → g ≤ 158) ∧ g ≤ 181

/-- The contract of the bit-stretch unit: output bits 2i and 2i+1 both equal input bit i (R90). -/
def Obligations.StretchDoublesEveryBit : Prop :=
  ∀ (m : Byte) (i : Nat), i < 8 →
    (stretch m).getLsbD (2 * i) = m.getLsbD i ∧ (stretch m).getLsbD (2 * i + 1) = m.getLsbD i

/-- The masked-shift form is equivalent (R91), and stretch commutes with complement (R93). -/
def Obligations.StretchFormsAgree : Prop :=
  ∀ m : Byte, stretchMasked m = stretch m ∧ stretch (~~~m) = ~~~(stretch m)

/-! ### PUTC -/

/-- A lead byte, or the second byte of the long-dash pair's first half, changes only `lastByte` (R79, R74, R153). -/
def Obligations.SuppressedByteIsOnlyRecorded : Prop :=
  ∀ (s : State) (b : Byte), s.cfg.wf = true → 192 ≤ b.toNat ∨ (s.lastByte = 0xE2#8 ∧ b = 0x80#8) →
    exec (.putc b) s = .next { s with lastByte := b }

/-- The registers after a PUTC that draws: `lastByte` is the byte, OOR is raised for a byte without an index, and the
cursor advances by `scale`, wraps at 20 and saturates (R152, R153, R211). The stores and the trace are the subject of
`PutcMergesTheGlyph`. -/
def Obligations.PutcAdvancesTheCursor : Prop :=
  ∀ (s : State) (b : Byte) (r : Resolved), s.cfg.wf = true → resolve s.cfg.substAsCode b s.lastByte = r →
    r = .outOfRange ∨ (∃ g, r = .glyph g) →
    ∃ t, exec (.putc b) s = .next t ∧
      t = { s with lastByte := b, oor := s.oor || decide (r = .outOfRange), column := t.column, row := t.row,
                   endFlag := t.endFlag, sb := t.sb, pm := t.pm, trace := t.trace } ∧
      (s.column.toNat + s.scale.toNat < 20 →
        t.column.toNat = s.column.toNat + s.scale.toNat ∧ t.row = s.row ∧ t.endFlag = s.endFlag) ∧
      (20 ≤ s.column.toNat + s.scale.toNat →
        t.column = 0 ∧ t.row.toNat = min (s.row.toNat + s.scale.toNat) (pages s - 1) ∧
        t.endFlag = (s.endFlag || decide (s.row.toNat + s.scale.toNat > pages s - 1)))

/-- What a PUTC that draws does to the pixels, in each mode: the bytes of the glyph's clipped write list at the old
cursor are overwritten (Direct) or ORed in, every other byte reads as before, and the bus events are those of the
mode (R101, R103, R105 to R107, R113, R130, R136). A byte without an index draws glyph 0 (R153). -/
def Obligations.PutcMergesTheGlyph : Prop :=
  ∀ (s : State) (b : Byte) (g : Nat) (ws : List ByteWrite), s.cfg.wf = true →
    resolve s.cfg.substAsCode b s.lastByte = .glyph g ∨
      (resolve s.cfg.substAsCode b s.lastByte = .outOfRange ∧ g = 0) →
    ws = clipWrites (pages s) (glyphWrites s g) →
    ∃ t, exec (.putc b) s = .next t ∧
      (∀ a, (∀ w ∈ ws, fbIndex (pages s) w.x w.p ≠ a) → pmByte t a = pmByte s a ∧ sbByte t a = sbByte s a) ∧
      (s.cfg.mode = .direct → t.sb = s.sb ∧
        (∀ w ∈ ws, pmByte t (fbIndex (pages s) w.x w.p) = w.v) ∧
        (s.column.toNat ≤ 19 → s.row.toNat < pages s →
          t.trace = s.trace ++
            [.tx (6 * s.column.toNat) (6 * s.column.toNat + 6 * s.scale.toNat - 1) s.row.toNat
              (min (s.row.toNat + s.scale.toNat - 1) (pages s - 1)) (ws.map (·.v))])) ∧
      (s.cfg.mode = .hardwareBuffer → t.sb = s.sb ∧
        (∀ w ∈ ws, pmByte t (fbIndex (pages s) w.x w.p) = pmByte s (fbIndex (pages s) w.x w.p) ||| w.v) ∧
        t.trace = s.trace ++ ws.flatMap fun w =>
          [.rd w.x w.p (pmByte s (fbIndex (pages s) w.x w.p)),
           .tx w.x w.x w.p w.p [pmByte s (fbIndex (pages s) w.x w.p) ||| w.v]]) ∧
      (s.cfg.mode = .softwareBuffer →
        (∀ w ∈ ws, sbByte t (fbIndex (pages s) w.x w.p) = sbByte s (fbIndex (pages s) w.x w.p) ||| w.v) ∧
        (s.cfg.autoSend = true →
          (∀ w ∈ ws, pmByte t (fbIndex (pages s) w.x w.p) = sbByte s (fbIndex (pages s) w.x w.p) ||| w.v) ∧
          t.trace = s.trace ++ ws.map fun w =>
            .tx w.x w.x w.p w.p [sbByte s (fbIndex (pages s) w.x w.p) ||| w.v]) ∧
        (s.cfg.autoSend = false → t.pm = s.pm ∧ t.trace = s.trace))

/-- The write list at scale 1: six bytes, the masks complemented when `inverse` is 1 (R131, R132, R134). -/
def Obligations.GlyphWritesAtScaleOne : Prop :=
  ∀ (s : State) (g : Nat) (e : Glyph), s.scale = .one → s.cfg.font[g]? = some e →
    (glyphWrites s g).length = 6 ∧
    ∀ k, k < 6 → ∃ m, [e.col0, e.col1, e.col2, e.col3, e.col4, e.col5][k]? = some m ∧
      (glyphWrites s g)[k]? =
        some ⟨s.column.toNat * 6 + k, s.row.toNat, if s.inverse then ~~~m else m⟩

/-- The write list at scale 2: each mask stretched, its low byte at page p0 and its high byte at page p0 + 1, at two
pixel columns, in page-fastest order (R92, R135). -/
def Obligations.GlyphWritesAtScaleTwo : Prop :=
  ∀ (s : State) (g : Nat) (e : Glyph), s.scale = .two → s.cfg.font[g]? = some e →
    (glyphWrites s g).length = 24 ∧
    ∀ k d, k < 6 → d < 2 → ∃ m, [e.col0, e.col1, e.col2, e.col3, e.col4, e.col5][k]? = some m ∧
      (glyphWrites s g)[4 * k + 2 * d]? =
        some ⟨s.column.toNat * 6 + 2 * k + d, s.row.toNat,
          (stretch (if s.inverse then ~~~m else m)).extractLsb' 0 8⟩ ∧
      (glyphWrites s g)[4 * k + 2 * d + 1]? =
        some ⟨s.column.toNat * 6 + 2 * k + d, s.row.toNat + 1,
          (stretch (if s.inverse then ~~~m else m)).extractLsb' 8 8⟩

/-- Twenty ASCII characters at scale 1 from column 0 fill a row: the cursor is at column 0 of the next row, or of the
last row with endFlag set (R162, S9). -/
def Obligations.TwentyCharactersFillARow : Prop :=
  ∀ (s : State) (bs : List Byte), s.cfg.wf = true → s.column = 0 → s.scale = .one → s.row.toNat < pages s →
    bs.length = 20 → (∀ b ∈ bs, 32 ≤ b.toNat ∧ b.toNat ≤ 127) →
    ∃ t, execAll (bs.map .putc) s = .next t ∧ t.column = 0 ∧
      t.row.toNat = min (s.row.toNat + 1) (pages s - 1) ∧
      t.endFlag = (s.endFlag || decide (s.row.toNat = pages s - 1))

/-! ### DOT -/

/-- A DOT out of bounds leaves every component of the state unchanged (R180, R182). -/
def Obligations.DotOutOfBoundsChangesNothing : Prop :=
  ∀ (s : State) (x y : Int), x < 0 ∨ x ≥ 128 ∨ y < 0 ∨ y ≥ 8 * (pages s : Int) →
    exec (.dot x y) s = .next s

/-- A DOT in bounds, in each mode: the byte of the pixel, every other byte as before, the bus events, and no register
(R102, R104, R108, R180, R181). -/
def Obligations.DotWritesItsPixel : Prop :=
  ∀ (s : State) (x y : Int) (i : Nat) (m : Byte), 0 ≤ x → x < 128 → 0 ≤ y → y < 8 * (pages s : Int) →
    i = fbIndex (pages s) x.toNat (y.toNat / 8) → m = 1#8 <<< (y.toNat % 8) →
    ∃ t, exec (.dot x y) s = .next t ∧ pixelOnly s t ∧
      (s.cfg.mode = .direct → t.sb = s.sb ∧ (∀ a, pmByte t a = if a = i then m else pmByte s a) ∧
        t.trace = s.trace ++ [.tx x.toNat x.toNat (y.toNat / 8) (y.toNat / 8) [m]]) ∧
      (s.cfg.mode = .hardwareBuffer → t.sb = s.sb ∧
        (∀ a, pmByte t a = if a = i then pmByte s a ||| m else pmByte s a) ∧
        t.trace = s.trace ++
          [.rd x.toNat (y.toNat / 8) (pmByte s i),
           .tx x.toNat x.toNat (y.toNat / 8) (y.toNat / 8) [pmByte s i ||| m]]) ∧
      (s.cfg.mode = .softwareBuffer →
        (∀ a, sbByte t a = if a = i then sbByte s a ||| m else sbByte s a) ∧
        (s.cfg.autoSend = true →
          (∀ a, pmByte t a = if a = i then sbByte s a ||| m else pmByte s a) ∧
          t.trace = s.trace ++ [.tx x.toNat x.toNat (y.toNat / 8) (y.toNat / 8) [sbByte s i ||| m]]) ∧
        (s.cfg.autoSend = false → t.pm = s.pm ∧ t.trace = s.trace))

/-- A repeated DOT leaves both stores as the first one did, in every mode (R183). -/
def Obligations.RepeatedDotLeavesStoresAlone : Prop :=
  ∀ (s t u : State) (x y : Int), exec (.dot x y) s = .next t → exec (.dot x y) t = .next u →
    ∀ a, pmByte u a = pmByte t a ∧ sbByte u a = sbByte t a

/-! ### LINE -/

/-- The fast paths: |b - a| points, from the first endpoint toward the far one, which is left out; equal endpoints
draw nothing (R191, R192). -/
def Obligations.FastPathsLeaveOutTheFarEndpoint : Prop :=
  (∀ x y0 y1 : Int, (linePoints x y0 x y1).length = (y1 - y0).natAbs ∧
    ∀ k, k < (y1 - y0).natAbs →
      (linePoints x y0 x y1)[k]? = some (x, if y0 < y1 then y0 + k else y0 - k)) ∧
  (∀ y x0 x1 : Int, x0 ≠ x1 → (linePoints x0 y x1 y).length = (x1 - x0).natAbs ∧
    ∀ k, k < (x1 - x0).natAbs →
      (linePoints x0 y x1 y)[k]? = some (if x0 < x1 then x0 + k else x0 - k, y))

/-- The general path plots max(dx, dy) + 1 points, the first at (x0, y0) and the last at (x1, y1): the loop always
reaches its exit (R193, R195). -/
def Obligations.GeneralLineReachesItsEndpoint : Prop :=
  ∀ x0 y0 x1 y1 : Int, x0 ≠ x1 → y0 ≠ y1 →
    (linePoints x0 y0 x1 y1).length = max (x1 - x0).natAbs (y1 - y0).natAbs + 1 ∧
    (linePoints x0 y0 x1 y1).head? = some (x0, y0) ∧
    (linePoints x0 y0 x1 y1).getLast? = some (x1, y1)

/-- Consecutive points of the general path differ by at most 1 in each coordinate and are never equal, and every
point lies in the box the endpoints span (R194, R195). -/
def Obligations.GeneralLineStepsAreAdjacent : Prop :=
  ∀ x0 y0 x1 y1 : Int, x0 ≠ x1 → y0 ≠ y1 →
    (∀ k p q, (linePoints x0 y0 x1 y1)[k]? = some p → (linePoints x0 y0 x1 y1)[k + 1]? = some q →
      (q.1 - p.1).natAbs ≤ 1 ∧ (q.2 - p.2).natAbs ≤ 1 ∧ p ≠ q) ∧
    ∀ p ∈ linePoints x0 y0 x1 y1,
      min x0 x1 ≤ p.1 ∧ p.1 ≤ max x0 x1 ∧ min y0 y1 ≤ p.2 ∧ p.2 ≤ max y0 y1

/-- No intermediate of the general path leaves 32 bits for `i16` operands (R194's conclusion): not `dx` and `dy` nor
the differences they come from, and at every pass not `x`, `y`, `err`, `e2`, nor the `err` between the two updates.
The bound on `err` is the model's own, 2 |err| ≤ 3 max(dx, dy), before and between the updates (log 13): R194's own
bound does not hold. -/
def Obligations.GeneralLineFitsThirtyTwoBits : Prop :=
  ∀ (x0 y0 x1 y1 : Int) (dx dy : Nat), fitsI16 x0 → fitsI16 y0 → fitsI16 x1 → fitsI16 y1 → x0 ≠ x1 → y0 ≠ y1 →
    dx = (x1 - x0).natAbs → dy = (y1 - y0).natAbs →
    fitsI32 (x1 - x0) ∧ fitsI32 (y1 - y0) ∧ fitsI32 dx ∧ fitsI32 dy ∧ fitsI32 (-(dy : Int)) ∧
    ∀ r ∈ generalPasses x0 y0 x1 y1,
      fitsI32 r.x ∧ fitsI32 r.y ∧ fitsI32 r.err ∧ fitsI32 (2 * r.err) ∧
      (2 * r.err).natAbs ≤ 3 * max dx dy ∧
      (2 * r.err > -(dy : Int) →
        fitsI32 (r.err - dy) ∧ (2 * (r.err - dy)).natAbs ≤ 3 * max dx dy)

/-- The bound R194 gives, `err` in [-dy, dx] and |e2| ≤ 131070 at every pass. It does NOT hold of R193's own loop
(log 13): this statement is expected to fail, by LINE 0, 0, 100, 1 among others. -/
def Obligations.GeneralLineErrStaysInStatedBound : Prop :=
  ∀ x0 y0 x1 y1 : Int, fitsI16 x0 → fitsI16 y0 → fitsI16 x1 → fitsI16 y1 → x0 ≠ x1 → y0 ≠ y1 →
    ∀ r ∈ generalPasses x0 y0 x1 y1,
      -((y1 - y0).natAbs : Int) ≤ r.err ∧ r.err ≤ (x1 - x0).natAbs ∧ (2 * r.err).natAbs ≤ 131070

/-- LINE does what the DOT commands of its points do, one after the other: their pixels, their bus events, their
drops out of bounds (R190). -/
def Obligations.LineDotsEachPoint : Prop :=
  ∀ (s : State) (x0 y0 x1 y1 : Int),
    exec (.line x0 y0 x1 y1) s = execAll ((linePoints x0 y0 x1 y1).map fun q => .dot q.1 q.2) s

/-- LINE in the merging modes lights exactly its points: a pixel on the panel (HardwareBuffer) or in the shadow
buffer (SoftwareBuffer) is lit afterwards if it was, or if LINE plots it; bytes that hold no plotted pixel, and every
register, are unchanged; with AUTO_SEND the touched bytes reach the panel, without it the panel is as before
(R190, R104, R108). -/
def Obligations.LineLightsExactlyItsPoints : Prop :=
  ∀ (s : State) (x0 y0 x1 y1 : Int), ∃ t, exec (.line x0 y0 x1 y1) s = .next t ∧ pixelOnly s t ∧
    (∀ a, (∀ q ∈ linePoints x0 y0 x1 y1, pixelInBounds s q.1 q.2 = true → pixelIndex s q.1 q.2 ≠ a) →
      pmByte t a = pmByte s a ∧ sbByte t a = sbByte s a) ∧
    (s.cfg.mode = .hardwareBuffer → t.sb = s.sb ∧ ∀ x y, pixelInBounds s x y = true →
      pmPixel t x y = (pmPixel s x y || decide ((x, y) ∈ linePoints x0 y0 x1 y1))) ∧
    (s.cfg.mode = .softwareBuffer →
      (∀ x y, pixelInBounds s x y = true →
        sbPixel t x y = (sbPixel s x y || decide ((x, y) ∈ linePoints x0 y0 x1 y1))) ∧
      (s.cfg.autoSend = true → ∀ q ∈ linePoints x0 y0 x1 y1, pixelInBounds s q.1 q.2 = true →
        pmByte t (pixelIndex s q.1 q.2) = sbByte t (pixelIndex s q.1 q.2)) ∧
      (s.cfg.autoSend = false → t.pm = s.pm ∧ t.trace = s.trace))

/-- LINE in Direct mode is lossy: every byte that holds a plotted pixel ends as the mask of the last one plotted in
it (R102, R196, R234). -/
def Obligations.DirectLineKeepsTheLastPoint : Prop :=
  ∀ (s : State) (x0 y0 x1 y1 : Int), s.cfg.mode = .direct →
    ∃ t, exec (.line x0 y0 x1 y1) s = .next t ∧ pixelOnly s t ∧ t.sb = s.sb ∧
      ∀ a, pmByte t a =
        match ((linePoints x0 y0 x1 y1).filter fun q =>
            pixelInBounds s q.1 q.2 && pixelIndex s q.1 q.2 == a).getLast? with
        | some q => pixelMask q.2
        | none => pmByte s a

/-! ### The assembler -/

/-- The pseudo-instructions: PUTS and PUTN are one PUTC per byte, PRINTLN is PUTS and LNBRK, HOME is SETCUR 0, 0
(R59, R161). -/
def Obligations.PseudoInstructionsExpand : Prop :=
  ∀ bs : List Byte,
    assembleLines [.puts bs] = bs.flatMap (fun b => [0x01#8, b]) ∧
    assembleLines [.println bs] = bs.flatMap (fun b => [0x01#8, b]) ++ [0x02#8] ∧
    assembleLines [.putn bs] = bs.flatMap (fun b => [0x01#8, b]) ∧
    assembleLines [.home] = [0x03#8, 0x00#8, 0x00#8]
end

