-- ==== Sys2Proof/Laws/Memory.lean ====
section
/-! SUPPORT. The laws of a pixel store: reading after writing, and the canonical form that every write keeps. -/

namespace Sys2Proof.Machine

@[simp] theorem Memory.read?_nil (a : Nat) : Memory.read? [] a = none := rfl

@[simp] theorem Memory.read?_cons (c : Host.Cell) (m : Memory) (a : Nat) :
    Memory.read? (c :: m) a = if c.1 = a then some c.2 else Memory.read? m a := rfl

/-- Reading the index just written gives the byte written. -/
@[simp] theorem Memory.read?_write_same (m : Memory) (a : Nat) (v : Byte) :
    (m.write a v).read? a = some v := by
  induction m with
  | nil => simp [Memory.write]
  | cons c m ih =>
    unfold Memory.write
    split
    · simp
    · split
      · simp
      · simp_all

/-- A write leaves every other index alone. -/
theorem Memory.read?_write_other (m : Memory) {a b : Nat} (v : Byte) (h : a ≠ b) :
    (m.write a v).read? b = m.read? b := by
  induction m with
  | nil => simp [Memory.write, h]
  | cons c m ih =>
    unfold Memory.write
    split
    · rename_i hc
      have : c.1 ≠ b := fun e => h (hc ▸ e)
      simp [h, this]
    · split
      · simp [h]
      · simp [ih]

/-- What a write can do to a read. -/
theorem Memory.read?_write (m : Memory) (a b : Nat) (v : Byte) :
    (m.write a v).read? b = if a = b then some v else m.read? b := by
  split
  · rename_i h; subst h; simp
  · rename_i h; exact m.read?_write_other v h

/-- A run of writes leaves every index alone that none of them names. -/
theorem Memory.read?_writeAll_other (cells : List Host.Cell) (m : Memory) (b : Nat)
    (h : ∀ c ∈ cells, c.1 ≠ b) : (m.writeAll cells).read? b = m.read? b := by
  induction cells generalizing m with
  | nil => rfl
  | cons c cells ih =>
    have hb := ih (m.write c.1 c.2) fun d hd => h d (List.mem_cons_of_mem _ hd)
    rw [show m.writeAll (c :: cells) = (m.write c.1 c.2).writeAll cells from rfl, hb,
      m.read?_write_other c.2 (h c List.mem_cons_self)]

/-- Every index below which a store's first address must lie: the head of a write. -/
theorem Memory.wf_cons (c : Host.Cell) (m : Memory) :
    Memory.wf (c :: m) = true ↔ (∀ d ∈ m.head?, c.1 < d.1) ∧ Memory.wf m = true := by
  cases m with
  | nil => simp [Memory.wf]
  | cons d m => simp [Memory.wf]

/-- The first address of a store after a write. -/
theorem Memory.head_write (m : Memory) (a : Nat) (v : Byte) :
    ∀ d ∈ (m.write a v).head?, d.1 = a ∨ ∃ c ∈ m.head?, d.1 = c.1 := by
  cases m with
  | nil => simp [Memory.write]
  | cons c m =>
    unfold Memory.write
    split
    · simp
    · split <;> simp

/-- A write keeps the canonical form. -/
theorem Memory.write_wf (m : Memory) (a : Nat) (v : Byte) (h : m.wf = true) : (m.write a v).wf = true := by
  induction m with
  | nil => rfl
  | cons c m ih =>
    rw [Memory.wf_cons] at h
    unfold Memory.write
    split
    · rename_i hc
      rw [Memory.wf_cons]
      exact ⟨fun d hd => hc ▸ h.1 d hd, h.2⟩
    · split
      · rename_i hlt
        rw [Memory.wf_cons]
        exact ⟨by simpa using hlt, (Memory.wf_cons c m).2 h⟩
      · rename_i hne hge
        rw [Memory.wf_cons]
        refine ⟨fun d hd => ?_, ih h.2⟩
        rcases Memory.head_write m a v d hd with e | ⟨c', hc', e⟩
        · omega
        · rw [e]; exact h.1 c' hc'

/-- A run of writes keeps the canonical form. -/
theorem Memory.writeAll_wf (cells : List Host.Cell) (m : Memory) (h : m.wf = true) :
    (m.writeAll cells).wf = true := by
  induction cells generalizing m with
  | nil => exact h
  | cons c cells ih => exact ih _ (m.write_wf c.1 c.2 h)

/-- A write inside the store keeps it inside. -/
theorem Memory.write_within (n : Nat) (m : Memory) (a : Nat) (v : Byte) (ha : a < n)
    (h : m.within n = true) : (m.write a v).within n = true := by
  induction m with
  | nil => simpa [Memory.write, Memory.within] using ha
  | cons c m ih =>
    simp only [Memory.within, List.all_cons, Bool.and_eq_true, decide_eq_true_eq] at h ih
    unfold Memory.write
    split
    · simpa [Memory.within, ha] using h.2
    · split
      · simpa [Memory.within, ha] using h
      · simpa [Memory.within, h.1] using ih h.2

/-- A run of writes inside the store keeps it inside. -/
theorem Memory.writeAll_within (n : Nat) (cells : List Host.Cell) (m : Memory)
    (hc : ∀ c ∈ cells, c.1 < n) (h : m.within n = true) : (m.writeAll cells).within n = true := by
  induction cells generalizing m with
  | nil => exact h
  | cons c cells ih =>
    exact ih _ (fun d hd => hc d (List.mem_cons_of_mem _ hd))
      (m.write_within n c.1 c.2 (hc c List.mem_cons_self) h)

/-- In a canonical store an index below the first address is not listed. -/
theorem Memory.read?_below (m : Memory) (a : Nat) (h : m.wf = true) (hb : ∀ c ∈ m.head?, a < c.1) :
    m.read? a = none := by
  induction m with
  | nil => rfl
  | cons c m ih =>
    rw [Memory.wf_cons] at h
    have hc : a < c.1 := hb c (by simp)
    rw [Memory.read?_cons, if_neg (by omega)]
    exact ih h.2 fun d hd => lt_trans hc (h.1 d hd)

/-- Equal stores are equal data: two canonical stores that read the same everywhere are the same list. -/
theorem Memory.ext_of_read? (m n : Memory) (hm : m.wf = true) (hn : n.wf = true)
    (h : ∀ a, m.read? a = n.read? a) : m = n := by
  induction m generalizing n with
  | nil =>
    cases n with
    | nil => rfl
    | cons d n => simpa using h d.1
  | cons c m ih =>
    cases n with
    | nil => simpa using h c.1
    | cons d n =>
      have hm' := (Memory.wf_cons c m).1 hm
      have hn' := (Memory.wf_cons d n).1 hn
      have hcd : c.1 = d.1 := by
        rcases lt_trichotomy c.1 d.1 with hlt | heq | hgt
        · have := (h c.1).symm.trans (by simp : Memory.read? (c :: m) c.1 = some c.2)
          rw [Memory.read?_below (d :: n) c.1 hn (by simpa using hlt)] at this
          exact absurd this (by simp)
        · exact heq
        · have := (h d.1).trans (by simp : Memory.read? (d :: n) d.1 = some d.2)
          rw [Memory.read?_below (c :: m) d.1 hm (by simpa using hgt)] at this
          exact absurd this (by simp)
      have hv : c.2 = d.2 := by simpa [hcd] using h c.1
      have htail : ∀ a, Memory.read? m a = Memory.read? n a := fun a => by
        by_cases hac : c.1 = a
        · rw [Memory.read?_below m a hm'.2 (fun e he => hac ▸ hm'.1 e he),
            Memory.read?_below n a hn'.2 (fun e he => hac ▸ hcd ▸ hn'.1 e he)]
        · have hda : ¬d.1 = a := fun e => hac (hcd.trans e)
          simpa [hac, hda] using h a
      rw [ih n hm'.2 hn'.2 htail, Prod.ext hcd hv]

end Sys2Proof.Machine
end

