-- ==== Sys2Proof/Laws/State.lean ====
section
/-! SUPPORT. One lemma per field per update: what each named update of the state does to each field. -/

namespace Sys2Proof.Machine

@[simp] theorem logEvent_cfg (s : State) (e : BusEvent) :
    (logEvent s e).cfg = s.cfg := rfl
@[simp] theorem logEvent_column (s : State) (e : BusEvent) :
    (logEvent s e).column = s.column := rfl
@[simp] theorem logEvent_row (s : State) (e : BusEvent) :
    (logEvent s e).row = s.row := rfl
@[simp] theorem logEvent_scale (s : State) (e : BusEvent) :
    (logEvent s e).scale = s.scale := rfl
@[simp] theorem logEvent_inverse (s : State) (e : BusEvent) :
    (logEvent s e).inverse = s.inverse := rfl
@[simp] theorem logEvent_lastByte (s : State) (e : BusEvent) :
    (logEvent s e).lastByte = s.lastByte := rfl
@[simp] theorem logEvent_endFlag (s : State) (e : BusEvent) :
    (logEvent s e).endFlag = s.endFlag := rfl
@[simp] theorem logEvent_oor (s : State) (e : BusEvent) :
    (logEvent s e).oor = s.oor := rfl
@[simp] theorem logEvent_ill (s : State) (e : BusEvent) :
    (logEvent s e).ill = s.ill := rfl
@[simp] theorem logEvent_parse (s : State) (e : BusEvent) :
    (logEvent s e).parse = s.parse := rfl
@[simp] theorem logEvent_sb (s : State) (e : BusEvent) :
    (logEvent s e).sb = s.sb := rfl
@[simp] theorem logEvent_pm (s : State) (e : BusEvent) :
    (logEvent s e).pm = s.pm := rfl
@[simp] theorem logEvent_trace (s : State) (e : BusEvent) :
    (logEvent s e).trace = s.trace ++ [e] := rfl
@[simp] theorem logEvent_input (s : State) (e : BusEvent) :
    (logEvent s e).input = s.input := rfl
@[simp] theorem logEvent_resets (s : State) (e : BusEvent) :
    (logEvent s e).resets = s.resets := rfl

@[simp] theorem sbWrite_cfg (s : State) (i : Nat) (v : Byte) :
    (sbWrite s i v).cfg = s.cfg := rfl
@[simp] theorem sbWrite_column (s : State) (i : Nat) (v : Byte) :
    (sbWrite s i v).column = s.column := rfl
@[simp] theorem sbWrite_row (s : State) (i : Nat) (v : Byte) :
    (sbWrite s i v).row = s.row := rfl
@[simp] theorem sbWrite_scale (s : State) (i : Nat) (v : Byte) :
    (sbWrite s i v).scale = s.scale := rfl
@[simp] theorem sbWrite_inverse (s : State) (i : Nat) (v : Byte) :
    (sbWrite s i v).inverse = s.inverse := rfl
@[simp] theorem sbWrite_lastByte (s : State) (i : Nat) (v : Byte) :
    (sbWrite s i v).lastByte = s.lastByte := rfl
@[simp] theorem sbWrite_endFlag (s : State) (i : Nat) (v : Byte) :
    (sbWrite s i v).endFlag = s.endFlag := rfl
@[simp] theorem sbWrite_oor (s : State) (i : Nat) (v : Byte) :
    (sbWrite s i v).oor = s.oor := rfl
@[simp] theorem sbWrite_ill (s : State) (i : Nat) (v : Byte) :
    (sbWrite s i v).ill = s.ill := rfl
@[simp] theorem sbWrite_parse (s : State) (i : Nat) (v : Byte) :
    (sbWrite s i v).parse = s.parse := rfl
@[simp] theorem sbWrite_sb (s : State) (i : Nat) (v : Byte) :
    (sbWrite s i v).sb = s.sb.write i v := rfl
@[simp] theorem sbWrite_pm (s : State) (i : Nat) (v : Byte) :
    (sbWrite s i v).pm = s.pm := rfl
@[simp] theorem sbWrite_trace (s : State) (i : Nat) (v : Byte) :
    (sbWrite s i v).trace = s.trace := rfl
@[simp] theorem sbWrite_input (s : State) (i : Nat) (v : Byte) :
    (sbWrite s i v).input = s.input := rfl
@[simp] theorem sbWrite_resets (s : State) (i : Nat) (v : Byte) :
    (sbWrite s i v).resets = s.resets := rfl

@[simp] theorem panelTx_cfg (s : State) (xa xb pa pb : Nat) (data : List Byte) :
    (panelTx s xa xb pa pb data).cfg = s.cfg := rfl
@[simp] theorem panelTx_column (s : State) (xa xb pa pb : Nat) (data : List Byte) :
    (panelTx s xa xb pa pb data).column = s.column := rfl
@[simp] theorem panelTx_row (s : State) (xa xb pa pb : Nat) (data : List Byte) :
    (panelTx s xa xb pa pb data).row = s.row := rfl
@[simp] theorem panelTx_scale (s : State) (xa xb pa pb : Nat) (data : List Byte) :
    (panelTx s xa xb pa pb data).scale = s.scale := rfl
@[simp] theorem panelTx_inverse (s : State) (xa xb pa pb : Nat) (data : List Byte) :
    (panelTx s xa xb pa pb data).inverse = s.inverse := rfl
@[simp] theorem panelTx_lastByte (s : State) (xa xb pa pb : Nat) (data : List Byte) :
    (panelTx s xa xb pa pb data).lastByte = s.lastByte := rfl
@[simp] theorem panelTx_endFlag (s : State) (xa xb pa pb : Nat) (data : List Byte) :
    (panelTx s xa xb pa pb data).endFlag = s.endFlag := rfl
@[simp] theorem panelTx_oor (s : State) (xa xb pa pb : Nat) (data : List Byte) :
    (panelTx s xa xb pa pb data).oor = s.oor := rfl
@[simp] theorem panelTx_ill (s : State) (xa xb pa pb : Nat) (data : List Byte) :
    (panelTx s xa xb pa pb data).ill = s.ill := rfl
@[simp] theorem panelTx_parse (s : State) (xa xb pa pb : Nat) (data : List Byte) :
    (panelTx s xa xb pa pb data).parse = s.parse := rfl
@[simp] theorem panelTx_sb (s : State) (xa xb pa pb : Nat) (data : List Byte) :
    (panelTx s xa xb pa pb data).sb = s.sb := rfl
@[simp] theorem panelTx_pm (s : State) (xa xb pa pb : Nat) (data : List Byte) :
    (panelTx s xa xb pa pb data).pm = s.pm.writeAll (windowCells (pages s) xa pa pb data) := rfl
@[simp] theorem panelTx_trace (s : State) (xa xb pa pb : Nat) (data : List Byte) :
    (panelTx s xa xb pa pb data).trace = s.trace ++ [.tx xa xb pa pb data] := rfl
@[simp] theorem panelTx_input (s : State) (xa xb pa pb : Nat) (data : List Byte) :
    (panelTx s xa xb pa pb data).input = s.input := rfl
@[simp] theorem panelTx_resets (s : State) (xa xb pa pb : Nat) (data : List Byte) :
    (panelTx s xa xb pa pb data).resets = s.resets := rfl

@[simp] theorem panelRd_snd_cfg (s : State) (x p : Nat) :
    (panelRd s x p).2.cfg = s.cfg := rfl
@[simp] theorem panelRd_snd_column (s : State) (x p : Nat) :
    (panelRd s x p).2.column = s.column := rfl
@[simp] theorem panelRd_snd_row (s : State) (x p : Nat) :
    (panelRd s x p).2.row = s.row := rfl
@[simp] theorem panelRd_snd_scale (s : State) (x p : Nat) :
    (panelRd s x p).2.scale = s.scale := rfl
@[simp] theorem panelRd_snd_inverse (s : State) (x p : Nat) :
    (panelRd s x p).2.inverse = s.inverse := rfl
@[simp] theorem panelRd_snd_lastByte (s : State) (x p : Nat) :
    (panelRd s x p).2.lastByte = s.lastByte := rfl
@[simp] theorem panelRd_snd_endFlag (s : State) (x p : Nat) :
    (panelRd s x p).2.endFlag = s.endFlag := rfl
@[simp] theorem panelRd_snd_oor (s : State) (x p : Nat) :
    (panelRd s x p).2.oor = s.oor := rfl
@[simp] theorem panelRd_snd_ill (s : State) (x p : Nat) :
    (panelRd s x p).2.ill = s.ill := rfl
@[simp] theorem panelRd_snd_parse (s : State) (x p : Nat) :
    (panelRd s x p).2.parse = s.parse := rfl
@[simp] theorem panelRd_snd_sb (s : State) (x p : Nat) :
    (panelRd s x p).2.sb = s.sb := rfl
@[simp] theorem panelRd_snd_pm (s : State) (x p : Nat) :
    (panelRd s x p).2.pm = s.pm := rfl
@[simp] theorem panelRd_snd_trace (s : State) (x p : Nat) :
    (panelRd s x p).2.trace = s.trace ++ [.rd x p (pmByte s (fbIndex (pages s) x p))] := rfl
@[simp] theorem panelRd_snd_input (s : State) (x p : Nat) :
    (panelRd s x p).2.input = s.input := rfl
@[simp] theorem panelRd_snd_resets (s : State) (x p : Nat) :
    (panelRd s x p).2.resets = s.resets := rfl

@[simp] theorem raise_cfg (c : Condition) (s : State) :
    (raise c s).cfg = s.cfg := by cases c <;> rfl
@[simp] theorem raise_column (c : Condition) (s : State) :
    (raise c s).column = s.column := by cases c <;> rfl
@[simp] theorem raise_row (c : Condition) (s : State) :
    (raise c s).row = s.row := by cases c <;> rfl
@[simp] theorem raise_scale (c : Condition) (s : State) :
    (raise c s).scale = s.scale := by cases c <;> rfl
@[simp] theorem raise_inverse (c : Condition) (s : State) :
    (raise c s).inverse = s.inverse := by cases c <;> rfl
@[simp] theorem raise_lastByte (c : Condition) (s : State) :
    (raise c s).lastByte = s.lastByte := by cases c <;> rfl
@[simp] theorem raise_endFlag (c : Condition) (s : State) :
    (raise c s).endFlag = s.endFlag := by cases c <;> rfl
@[simp] theorem raise_oor (c : Condition) (s : State) :
    (raise c s).oor = (s.oor || c == .oor) := by cases c <;> simp [raise]
@[simp] theorem raise_ill (c : Condition) (s : State) :
    (raise c s).ill = (s.ill || c == .ill) := by cases c <;> simp [raise]
@[simp] theorem raise_parse (c : Condition) (s : State) :
    (raise c s).parse = s.parse := by cases c <;> rfl
@[simp] theorem raise_sb (c : Condition) (s : State) :
    (raise c s).sb = s.sb := by cases c <;> rfl
@[simp] theorem raise_pm (c : Condition) (s : State) :
    (raise c s).pm = s.pm := by cases c <;> rfl
@[simp] theorem raise_trace (c : Condition) (s : State) :
    (raise c s).trace = s.trace := by cases c <;> rfl
@[simp] theorem raise_input (c : Condition) (s : State) :
    (raise c s).input = s.input := by cases c <;> rfl
@[simp] theorem raise_resets (c : Condition) (s : State) :
    (raise c s).resets = s.resets := by cases c <;> rfl

@[simp] theorem clearConditions_cfg (s : State) :
    (clearConditions s).cfg = s.cfg := rfl
@[simp] theorem clearConditions_column (s : State) :
    (clearConditions s).column = s.column := rfl
@[simp] theorem clearConditions_row (s : State) :
    (clearConditions s).row = s.row := rfl
@[simp] theorem clearConditions_scale (s : State) :
    (clearConditions s).scale = s.scale := rfl
@[simp] theorem clearConditions_inverse (s : State) :
    (clearConditions s).inverse = s.inverse := rfl
@[simp] theorem clearConditions_lastByte (s : State) :
    (clearConditions s).lastByte = s.lastByte := rfl
@[simp] theorem clearConditions_endFlag (s : State) :
    (clearConditions s).endFlag = s.endFlag := rfl
@[simp] theorem clearConditions_oor (s : State) :
    (clearConditions s).oor = false := rfl
@[simp] theorem clearConditions_ill (s : State) :
    (clearConditions s).ill = false := rfl
@[simp] theorem clearConditions_parse (s : State) :
    (clearConditions s).parse = s.parse := rfl
@[simp] theorem clearConditions_sb (s : State) :
    (clearConditions s).sb = s.sb := rfl
@[simp] theorem clearConditions_pm (s : State) :
    (clearConditions s).pm = s.pm := rfl
@[simp] theorem clearConditions_trace (s : State) :
    (clearConditions s).trace = s.trace := rfl
@[simp] theorem clearConditions_input (s : State) :
    (clearConditions s).input = s.input := rfl
@[simp] theorem clearConditions_resets (s : State) :
    (clearConditions s).resets = s.resets := rfl

@[simp] theorem send_cfg (s : State) (bs : List Byte) :
    (s.send bs).cfg = s.cfg := rfl
@[simp] theorem send_column (s : State) (bs : List Byte) :
    (s.send bs).column = s.column := rfl
@[simp] theorem send_row (s : State) (bs : List Byte) :
    (s.send bs).row = s.row := rfl
@[simp] theorem send_scale (s : State) (bs : List Byte) :
    (s.send bs).scale = s.scale := rfl
@[simp] theorem send_inverse (s : State) (bs : List Byte) :
    (s.send bs).inverse = s.inverse := rfl
@[simp] theorem send_lastByte (s : State) (bs : List Byte) :
    (s.send bs).lastByte = s.lastByte := rfl
@[simp] theorem send_endFlag (s : State) (bs : List Byte) :
    (s.send bs).endFlag = s.endFlag := rfl
@[simp] theorem send_oor (s : State) (bs : List Byte) :
    (s.send bs).oor = s.oor := rfl
@[simp] theorem send_ill (s : State) (bs : List Byte) :
    (s.send bs).ill = s.ill := rfl
@[simp] theorem send_parse (s : State) (bs : List Byte) :
    (s.send bs).parse = s.parse := rfl
@[simp] theorem send_sb (s : State) (bs : List Byte) :
    (s.send bs).sb = s.sb := rfl
@[simp] theorem send_pm (s : State) (bs : List Byte) :
    (s.send bs).pm = s.pm := rfl
@[simp] theorem send_trace (s : State) (bs : List Byte) :
    (s.send bs).trace = s.trace := rfl
@[simp] theorem send_input (s : State) (bs : List Byte) :
    (s.send bs).input = s.input ++ bs := rfl
@[simp] theorem send_resets (s : State) (bs : List Byte) :
    (s.send bs).resets = s.resets := rfl

@[simp] theorem shadowClear_cfg (s : State) :
    (shadowClear s).cfg = s.cfg := rfl
@[simp] theorem shadowClear_column (s : State) :
    (shadowClear s).column = s.column := rfl
@[simp] theorem shadowClear_row (s : State) :
    (shadowClear s).row = s.row := rfl
@[simp] theorem shadowClear_scale (s : State) :
    (shadowClear s).scale = s.scale := rfl
@[simp] theorem shadowClear_inverse (s : State) :
    (shadowClear s).inverse = s.inverse := rfl
@[simp] theorem shadowClear_lastByte (s : State) :
    (shadowClear s).lastByte = s.lastByte := rfl
@[simp] theorem shadowClear_endFlag (s : State) :
    (shadowClear s).endFlag = s.endFlag := rfl
@[simp] theorem shadowClear_oor (s : State) :
    (shadowClear s).oor = s.oor := rfl
@[simp] theorem shadowClear_ill (s : State) :
    (shadowClear s).ill = s.ill := rfl
@[simp] theorem shadowClear_parse (s : State) :
    (shadowClear s).parse = s.parse := rfl
@[simp] theorem shadowClear_sb (s : State) :
    (shadowClear s).sb = s.sb.writeAll ((List.range (fbSize s)).map fun i => (i, 0#8)) := rfl
@[simp] theorem shadowClear_pm (s : State) :
    (shadowClear s).pm = s.pm := rfl
@[simp] theorem shadowClear_trace (s : State) :
    (shadowClear s).trace = s.trace := rfl
@[simp] theorem shadowClear_input (s : State) :
    (shadowClear s).input = s.input := rfl
@[simp] theorem shadowClear_resets (s : State) :
    (shadowClear s).resets = s.resets := rfl

@[simp] theorem resetWith_cfg (c : Config) : (State.resetWith c).cfg = c := rfl
@[simp] theorem resetWith_column (c : Config) : (State.resetWith c).column = 0 := rfl
@[simp] theorem resetWith_row (c : Config) : (State.resetWith c).row = 0 := rfl
@[simp] theorem resetWith_scale (c : Config) : (State.resetWith c).scale = .one := rfl
@[simp] theorem resetWith_inverse (c : Config) : (State.resetWith c).inverse = false := rfl
@[simp] theorem resetWith_lastByte (c : Config) : (State.resetWith c).lastByte = 0 := rfl
@[simp] theorem resetWith_endFlag (c : Config) : (State.resetWith c).endFlag = false := rfl
@[simp] theorem resetWith_oor (c : Config) : (State.resetWith c).oor = false := rfl
@[simp] theorem resetWith_ill (c : Config) : (State.resetWith c).ill = false := rfl
@[simp] theorem resetWith_parse (c : Config) : (State.resetWith c).parse = .idle := rfl
@[simp] theorem resetWith_sb (c : Config) : (State.resetWith c).sb = [] := rfl
@[simp] theorem resetWith_pm (c : Config) : (State.resetWith c).pm = [] := rfl
@[simp] theorem resetWith_trace (c : Config) : (State.resetWith c).trace = [] := rfl
@[simp] theorem resetWith_input (c : Config) : (State.resetWith c).input = [] := rfl
@[simp] theorem resetWith_resets (c : Config) : (State.resetWith c).resets = 0 := rfl

@[simp] theorem panelRd_fst (s : State) (x p : Nat) : (panelRd s x p).1 = pmByte s (fbIndex (pages s) x p) := rfl

end Sys2Proof.Machine
end

