-- ==== Sys2Proof/Laws/Ops.lean ====
section
/-! SUPPORT. What each shared operation can do, said once: reads of the stores after it, its trace, and its frame. -/

namespace Sys2Proof.Machine

/-! ### Frames -/

theorem pixelOnly_refl (s : State) : pixelOnly s s := rfl

theorem pixelOnly_trans {s t u : State} (h : pixelOnly s t) (k : pixelOnly t u) : pixelOnly s u := by
  unfold pixelOnly at *; rw [k, h]

theorem pixelOnly_panelTx (s : State) (xa xb pa pb : Nat) (data : List Byte) :
    pixelOnly s (panelTx s xa xb pa pb data) := rfl

theorem pixelOnly_readbackWrite (s : State) (w : ByteWrite) : pixelOnly s (readbackWrite s w) := rfl

theorem pixelOnly_shadowWrite (s : State) (w : ByteWrite) : pixelOnly s (shadowWrite s w) := by
  simp only [shadowWrite]; split <;> rfl

theorem pixelOnly_directWrite (s : State) (ws : List ByteWrite) : pixelOnly s (directWrite s ws) := by
  cases ws <;> rfl

/-- A run of operations that touch only the pixel stores and the trace does no more. -/
theorem pixelOnly_foldl {α : Type} (f : State → α → State) (hf : ∀ s a, pixelOnly s (f s a)) (as : List α)
    (s : State) : pixelOnly s (as.foldl f s) := by
  induction as generalizing s with
  | nil => exact pixelOnly_refl s
  | cons a as ih => exact pixelOnly_trans (hf s a) (ih (f s a))

/-- WriteBytes changes SB, PM and the trace, and nothing else (R100). -/
theorem pixelOnly_writeBytes (s : State) (ws : List ByteWrite) : pixelOnly s (writeBytes s ws) := by
  simp only [writeBytes]
  split
  · exact pixelOnly_directWrite _ _
  · exact pixelOnly_foldl _ pixelOnly_readbackWrite _ _
  · exact pixelOnly_foldl _ pixelOnly_shadowWrite _ _

theorem pixelOnly_setPixel (s : State) (x y : Int) : pixelOnly s (setPixel s x y) := by
  unfold setPixel; split
  · exact pixelOnly_writeBytes _ _
  · exact pixelOnly_refl s

theorem pixelOnly_dot (s : State) (x y : Int) : pixelOnly s (dot s x y) := by
  unfold dot; split
  · exact pixelOnly_refl s
  · exact pixelOnly_setPixel _ _ _

theorem pixelOnly_dots (s : State) (ps : List (Int × Int)) : pixelOnly s (dots s ps) :=
  pixelOnly_foldl (fun s (q : Int × Int) => dot s q.1 q.2) (fun s q => pixelOnly_dot s q.1 q.2) ps s

theorem pixelOnly_render (s : State) (g : Nat) : pixelOnly s (render s g) := pixelOnly_writeBytes _ _

theorem pixelOnly_clearAll (s : State) : pixelOnly s (clearAll s) := by
  unfold clearAll; split <;> rfl

theorem pixelOnly_flushShadow (s : State) : pixelOnly s (flushShadow s) := by
  unfold flushShadow; split <;> rfl

/-- What a pixel-only operation leaves alone, field by field. -/
theorem pixelOnly_fields {s t : State} (h : pixelOnly s t) :
    t.cfg = s.cfg ∧ t.column = s.column ∧ t.row = s.row ∧ t.scale = s.scale ∧ t.inverse = s.inverse ∧
      t.lastByte = s.lastByte ∧ t.endFlag = s.endFlag ∧ t.oor = s.oor ∧ t.ill = s.ill ∧ t.parse = s.parse ∧
      t.input = s.input ∧ t.resets = s.resets := by
  rw [h]; exact ⟨rfl, rfl, rfl, rfl, rfl, rfl, rfl, rfl, rfl, rfl, rfl, rfl⟩

theorem cursorOnly_rowAdvance (s : State) : cursorOnly s (rowAdvance s) := by
  simp only [rowAdvance]; split <;> rfl

theorem cursorOnly_lineBreak (s : State) : cursorOnly s (lineBreak s) := by
  simp only [lineBreak, rowAdvance]; split <;> rfl

theorem cursorOnly_advance (s : State) : cursorOnly s (advance s) := by
  simp only [advance, rowAdvance]
  split
  · split <;> rfl
  · rfl

/-! ### Geometry -/

/-- PAGE_COUNT is 4 or 8 (R3). -/
theorem pages_eq (s : State) : pages s = 4 ∨ pages s = 8 := by
  unfold pages; cases s.cfg.pageCount <;> simp [PageCount.toNat]

/-- The index of an in-bounds byte is inside the store (R31). -/
theorem fbIndex_lt {n x p : Nat} (hx : x < panelWidth) (hp : p < n) : fbIndex n x p < panelWidth * n := by
  unfold fbIndex panelWidth at *
  nlinarith

/-- Different bytes have different indices (R31). -/
theorem fbIndex_inj {n x p x' p' : Nat} (hp : p < n) (hp' : p' < n)
    (h : fbIndex n x p = fbIndex n x' p') : x = x' ∧ p = p' := by
  unfold fbIndex at h
  have hx : x = x' := by
    rcases lt_trichotomy x x' with hlt | heq | hgt
    · nlinarith
    · exact heq
    · nlinarith
  subst hx
  exact ⟨rfl, by omega⟩

/-! ### Reads of the stores -/

@[simp] theorem pmByte_logEvent (s : State) (e : BusEvent) (a : Nat) : pmByte (logEvent s e) a = pmByte s a := rfl

@[simp] theorem sbByte_logEvent (s : State) (e : BusEvent) (a : Nat) : sbByte (logEvent s e) a = sbByte s a := rfl

@[simp] theorem pmByte_sbWrite (s : State) (i : Nat) (v : Byte) (a : Nat) :
    pmByte (sbWrite s i v) a = pmByte s a := rfl

theorem sbByte_sbWrite (s : State) (i : Nat) (v : Byte) (a : Nat) :
    sbByte (sbWrite s i v) a = if i = a then v else sbByte s a := by
  simp only [sbByte, sbWrite, Memory.read?_write]; split <;> rfl

@[simp] theorem sbByte_panelTx (s : State) (xa xb pa pb : Nat) (data : List Byte) (a : Nat) :
    sbByte (panelTx s xa xb pa pb data) a = sbByte s a := rfl

@[simp] theorem pages_panelTx (s : State) (xa xb pa pb : Nat) (data : List Byte) :
    pages (panelTx s xa xb pa pb data) = pages s := rfl

@[simp] theorem pages_sbWrite (s : State) (i : Nat) (v : Byte) : pages (sbWrite s i v) = pages s := rfl

/-- The one cell of a single-byte transaction (R36). -/
@[simp] theorem windowCells_single (n x p : Nat) (v : Byte) :
    windowCells n x p p [v] = [(fbIndex n x p, v)] := by
  simp [windowCells]

/-- Panel memory after a single-byte transaction (R36). -/
theorem pmByte_panelTx_single (s : State) (x p : Nat) (v : Byte) (a : Nat) :
    pmByte (panelTx s x x p p [v]) a = if fbIndex (pages s) x p = a then v else pmByte s a := by
  simp only [pmByte, panelTx, logEvent, windowCells_single, Memory.writeAll, List.foldl_cons, List.foldl_nil,
    Memory.read?_write]
  split <;> rfl

/-- A transaction changes no byte outside its window (R36). -/
theorem pmByte_panelTx_other (s : State) (xa xb pa pb : Nat) (data : List Byte) (a : Nat)
    (h : ∀ c ∈ windowCells (pages s) xa pa pb data, c.1 ≠ a) :
    pmByte (panelTx s xa xb pa pb data) a = pmByte s a := by
  simp only [pmByte, panelTx, logEvent, Memory.read?_writeAll_other _ _ _ h]

/-- The read-modify-write of HardwareBuffer mode: the byte, the trace, and the shadow buffer (R103, R112). -/
theorem readbackWrite_spec (s : State) (w : ByteWrite) :
    (∀ a, pmByte (readbackWrite s w) a =
      if fbIndex (pages s) w.x w.p = a then pmByte s a ||| w.v else pmByte s a) ∧
    (readbackWrite s w).sb = s.sb ∧
    (readbackWrite s w).trace = s.trace ++
      [.rd w.x w.p (pmByte s (fbIndex (pages s) w.x w.p)),
       .tx w.x w.x w.p w.p [pmByte s (fbIndex (pages s) w.x w.p) ||| w.v]] := by
  refine ⟨fun a => ?_, rfl, ?_⟩
  · have hp : pages (panelRd s w.x w.p).2 = pages s := rfl
    have hb : pmByte (panelRd s w.x w.p).2 a = pmByte s a := rfl
    simp only [readbackWrite, pmByte_panelTx_single, hp, hb, panelRd_fst]
    by_cases h : fbIndex (pages s) w.x w.p = a <;> simp [h]
  · simp [readbackWrite]

/-- A shadow write: the shadow byte, panel memory and the trace (R105, R106, R107, R112). -/
theorem shadowWrite_spec (s : State) (w : ByteWrite) :
    (∀ a, sbByte (shadowWrite s w) a =
      if fbIndex (pages s) w.x w.p = a then sbByte s a ||| w.v else sbByte s a) ∧
    (s.cfg.autoSend = true →
      (∀ a, pmByte (shadowWrite s w) a =
        if fbIndex (pages s) w.x w.p = a then sbByte s a ||| w.v else pmByte s a) ∧
      (shadowWrite s w).trace = s.trace ++
        [.tx w.x w.x w.p w.p [sbByte s (fbIndex (pages s) w.x w.p) ||| w.v]]) ∧
    (s.cfg.autoSend = false →
      (shadowWrite s w).pm = s.pm ∧ (shadowWrite s w).trace = s.trace) := by
  refine ⟨fun a => ?_, fun h => ⟨fun a => ?_, ?_⟩, fun h => ?_⟩
  · have hs : sbByte (shadowWrite s w) a = sbByte
        (sbWrite s (fbIndex (pages s) w.x w.p) (sbByte s (fbIndex (pages s) w.x w.p) ||| w.v)) a := by
      simp only [shadowWrite]; split <;> rfl
    rw [hs, sbByte_sbWrite]
    by_cases e : fbIndex (pages s) w.x w.p = a <;> simp [e]
  · simp only [shadowWrite, h, if_true, pmByte_panelTx_single, sbByte_sbWrite, pages_sbWrite, pmByte_sbWrite]
    by_cases e : fbIndex (pages s) w.x w.p = a <;> simp [e]
  · simp [shadowWrite, h, sbByte_sbWrite]
  · simp [shadowWrite, h]

/-! ### The cursor -/

/-- `RowAdvance` (R151): one page count down by the scale, saturating at the last page. -/
theorem rowAdvance_spec (s : State) :
    (rowAdvance s).row.toNat = min (s.row.toNat + s.scale.toNat) (pages s - 1) ∧
    (rowAdvance s).endFlag = (s.endFlag || decide (s.row.toNat + s.scale.toNat > pages s - 1)) ∧
    (rowAdvance s).column = s.column := by
  have hp := pages_eq s
  simp only [rowAdvance]
  split
  · rename_i h
    refine ⟨?_, by simp [h], rfl⟩
    simp only [BitVec.toNat_ofNat]
    omega
  · rename_i h
    refine ⟨?_, by simp [h], rfl⟩
    simp only [BitVec.toNat_ofNat]
    omega

/-! ### The whole panel as one window -/

/-- In a transaction over the whole panel, byte `i` of the data lands at index `i` (R110). -/
theorem windowCells_all (n : Nat) (hn : 0 < n) (data : List Byte) :
    windowCells n 0 0 (n - 1) data = data.zipIdx.map fun d => (d.2, d.1) := by
  unfold windowCells fbIndex
  have hs : n - 1 - 0 + 1 = n := by omega
  simp only [hs, Nat.zero_add]
  refine List.map_congr_left fun d _ => ?_
  rw [Nat.mod_add_div' d.2 n]

end Sys2Proof.Machine
end

