-- ==== Sys2Proof/Laws/PerInstr.lean ====
section
/-! SUPPORT. A fact about every command as syntax, one lemma per constructor: its encoding has the length that its
opcode byte alone gives (R50, R51). -/

namespace Sys2Proof.Laws

/-- The encoding of `i` is one opcode byte and the operand bytes that byte calls for (R50). -/
def EncodeLength.Statement (i : Instr) : Prop :=
  ∃ op ops, encode i = op :: ops ∧ (encode i).length = commandLength op

theorem EncodeLength.nop : EncodeLength.Statement .nop := ⟨_, _, rfl, rfl⟩
theorem EncodeLength.putc (b : Byte) : EncodeLength.Statement (.putc b) := ⟨_, _, rfl, rfl⟩
theorem EncodeLength.lnbrk : EncodeLength.Statement .lnbrk := ⟨_, _, rfl, rfl⟩
theorem EncodeLength.setcur (col row : Byte) : EncodeLength.Statement (.setcur col row) := ⟨_, _, rfl, rfl⟩
theorem EncodeLength.setscale (s : Byte) : EncodeLength.Statement (.setscale s) := ⟨_, _, rfl, rfl⟩
theorem EncodeLength.setinv (i : Byte) : EncodeLength.Statement (.setinv i) := ⟨_, _, rfl, rfl⟩
theorem EncodeLength.clear : EncodeLength.Statement .clear := ⟨_, _, rfl, rfl⟩
theorem EncodeLength.flush : EncodeLength.Statement .flush := ⟨_, _, rfl, rfl⟩
theorem EncodeLength.dot (x y : Int) : EncodeLength.Statement (.dot x y) := ⟨_, _, rfl, rfl⟩
theorem EncodeLength.line (x0 y0 x1 y1 : Int) : EncodeLength.Statement (.line x0 y0 x1 y1) := ⟨_, _, rfl, rfl⟩
theorem EncodeLength.clrst : EncodeLength.Statement .clrst := ⟨_, _, rfl, rfl⟩
theorem EncodeLength.reserved0B : EncodeLength.Statement .reserved0B := ⟨_, _, rfl, rfl⟩
theorem EncodeLength.reserved0C (low : BitVec 2) : EncodeLength.Statement (.reserved0C low) :=
  ⟨_, _, rfl, by revert low; decide⟩
theorem EncodeLength.reserved10 (low : BitVec 4) : EncodeLength.Statement (.reserved10 low) :=
  ⟨_, _, rfl, by revert low; decide⟩
theorem EncodeLength.reserved20 (low : BitVec 5) : EncodeLength.Statement (.reserved20 low) :=
  ⟨_, _, rfl, by revert low; decide⟩
theorem EncodeLength.reserved40 (low : BitVec 6) : EncodeLength.Statement (.reserved40 low) :=
  ⟨_, _, rfl, by revert low; decide⟩
theorem EncodeLength.reserved80 (low : BitVec 7) : EncodeLength.Statement (.reserved80 low) :=
  ⟨_, _, rfl, by revert low; decide⟩

end Sys2Proof.Laws
end

