-- ==== Sys2Proof/Tests/Slice0.lean ====
section
/-! SUPPORT. The model's own tests. Expected values are the spec's: the vectors of `95_test_vectors.md` (cited by
section or id) or the encoding of R50 to R55. A `witness_` theorem meets all hypotheses of the obligation it names. -/

namespace Sys2Proof.Tests
open Sys2Proof.Machine

-- One proof at a time: each kernel evaluation would otherwise hold a thread of its own.
set_option Elab.async false

/-! ### The checks of well-formedness refuse -/

theorem test_dot_operand_above_i16_refused : (Instr.dot 32768 0).wellFormed = false := by decide
theorem test_dot_operand_below_i16_refused : (Instr.dot 0 (-32769)).wellFormed = false := by decide
theorem test_line_operand_above_i16_refused : (Instr.line 0 0 0 32768).wellFormed = false := by decide
theorem test_line_extremes_accepted : (Instr.line (-32768) 32767 0 0).wellFormed = true := by decide

/-- FONT_T of `95_test_vectors.md`, cut to `n` glyphs. -/
def fontT (n : Nat) : List Glyph :=
  (List.range n).map fun g =>
    ⟨BitVec.ofNat 8 g, BitVec.ofNat 8 (g + 1), BitVec.ofNat 8 (g + 2), BitVec.ofNat 8 (g + 3), BitVec.ofNat 8 (g + 4), 0⟩

/-- A configuration with FONT_T and PAGE_COUNT = 4. -/
def configT (m : Mode) (autoSend : Bool) : Config :=
  { pageCount := .four, mode := m, autoSend := autoSend, font := fontT 159, substAsCode := true,
    busClockHz := 400000, busAddress := 60 }

theorem test_font_t_is_well_formed (m : Mode) (a : Bool) : (configT m a).wf = true := by
  cases m <;> cases a <;> decide +kernel
theorem test_short_font_refused : ({ configT .direct false with font := fontT 158 } : Config).wf = false := by
  decide +kernel
theorem test_font_too_short_for_raw_substitutes :
    ({ configT .direct false with substAsCode := false } : Config).wf = false := by decide +kernel
theorem test_lit_spacer_refused :
    ({ configT .direct false with font := ⟨0, 0, 0, 0, 0, 1⟩ :: fontT 159 } : Config).wf = false := by
  decide +kernel

/-! ### Words written out from the encoding, one for every constructor (R51, R53, R55) -/

theorem test_decode_nop : decode [0b00000000#8] = .ok (.nop, []) := by decide
theorem test_decode_putc : decode [0b00000001#8, 0b01000001#8] = .ok (.putc 0x41, []) := by decide
theorem test_decode_lnbrk : decode [0b00000010#8] = .ok (.lnbrk, []) := by decide
theorem test_decode_setcur : decode [0b00000011#8, 0x12#8, 0x02#8] = .ok (.setcur 18 2, []) := by decide
theorem test_decode_setscale : decode [0b00000100#8, 0x02#8] = .ok (.setscale 2, []) := by decide
theorem test_decode_setinv : decode [0b00000101#8, 0x01#8] = .ok (.setinv 1, []) := by decide
theorem test_decode_clear : decode [0b00000110#8] = .ok (.clear, []) := by decide
theorem test_decode_flush : decode [0b00000111#8] = .ok (.flush, []) := by decide
/-- Section 2.6: `DOT -1, 200` is `08 FF FF C8 00`. -/
theorem test_decode_dot : decode [0b00001000#8, 0xFF#8, 0xFF#8, 0xC8#8, 0x00#8] = .ok (.dot (-1) 200, []) := by decide
/-- Section 2.7: `LINE -2, 0, 1, 3` is `09 FE FF 00 00 01 00 03 00`. -/
theorem test_decode_line :
    decode [0b00001001#8, 0xFE#8, 0xFF#8, 0#8, 0#8, 0x01#8, 0#8, 0x03#8, 0#8] = .ok (.line (-2) 0 1 3, []) := by decide
theorem test_decode_clrst : decode [0b00001010#8] = .ok (.clrst, []) := by decide
theorem test_decode_reserved0B : decode [0b00001011#8] = .ok (.reserved0B, []) := by decide
theorem test_decode_reserved0C : decode [0b00001110#8] = .ok (.reserved0C 0b10, []) := by decide
theorem test_decode_reserved10 : decode [0b00011001#8] = .ok (.reserved10 0b1001, []) := by decide
theorem test_decode_reserved20 : decode [0b00110001#8] = .ok (.reserved20 0b10001, []) := by decide
theorem test_decode_reserved40 : decode [0b01100001#8] = .ok (.reserved40 0b100001, []) := by decide
theorem test_decode_reserved80 : decode [0b11000001#8] = .ok (.reserved80 0b1000001, []) := by decide
theorem test_decode_nothing : decode [] = .error .noBytes := by decide
theorem test_decode_truncated : decode [0x03#8, 0x05#8] = .error (.truncated 0x03#8) := by decide
theorem test_table_word_pads_with_zeros : decodeTableWord 8 0x08 = some (.dot 0 0) := by decide
theorem test_table_word_bytes_low_first : decodeTableWord 40 0x00C8FFFF08 = some (.dot (-1) 200) := by decide

/-- Section 2.6: the encodings of `DOT 127, 63` and `DOT 128, 0`. -/
theorem test_encode_dot : encode (.dot 127 63) = [0x08, 0x7F, 0x00, 0x3F, 0x00] ∧
    encode (.dot 128 0) = [0x08, 0x80, 0x00, 0x00, 0x00] := by decide

/-! ### The units -/

/-- R94 and section 2.2. -/
theorem test_stretch_values : [0x01#8, 0x10#8, 0x3C#8, 0xA5#8, 0x5F#8, 0x61#8].map stretch =
    [0x0003#16, 0x0300#16, 0x0FF0#16, 0xCC33#16, 0x33FF#16, 0x3C03#16] := by decide

/-- Section 2.7, the general path. -/
theorem test_line_points_general :
    linePoints 1 0 2 5 = [(1, 0), (1, 1), (1, 2), (2, 3), (2, 4), (2, 5)] ∧
    linePoints 3 1 0 0 = [(3, 1), (2, 1), (1, 0), (0, 0)] := by decide

/-- Section 2.7, the fast paths and the degenerate line. -/
theorem test_line_points_fast :
    linePoints 5 0 0 0 = [(5, 0), (4, 0), (3, 0), (2, 0), (1, 0)] ∧
    linePoints 2 1 2 5 = [(2, 1), (2, 2), (2, 3), (2, 4)] ∧ linePoints 4 4 4 4 = [] := by decide

/-- Section 2.1, the pair (226, 128) then (128, 147), and a pair broken by an ASCII byte. -/
theorem test_resolve_long_dash :
    resolve true 0x80 0xE2 = .suppress ∧ resolve true 0x93 0x80 = .glyph 13 ∧ resolve true 0x91 0x41 = .glyph 96 := by
  decide

/-! ### One command at a time -/

/-- The reset state with FONT_T. -/
def stateT (m : Mode) (autoSend : Bool := false) : State := State.resetWith (configT m autoSend)

/-- The next state of an outcome, or `d` where it stops. -/
def after (o : Host.Outcome State Fault Refusal) (d : State) : State :=
  match o with
  | .next t => t
  | _ => d

/-- The state after one command. -/
def one (i : Instr) (s : State) : State := after (exec i s) s

/-- Section 2.5: (0,0,1,0), PUTC 0x41, over a shadow buffer that holds one lit pixel in the glyph's first column. -/
theorem test_putc_advances :
    let t := one (.putc 0x41) { stateT .softwareBuffer with
      sb := [(0, 0x80#8), (4, 0#8), (8, 0#8), (12, 0#8), (16, 0#8), (20, 0#8)] }
    t.column = 1 ∧ t.sb = [(0, 0xA1#8), (4, 0x22#8), (8, 0x23#8), (12, 0x24#8), (16, 0x25#8), (20, 0#8)] := by
  decide +kernel

/-- Section 2.4, cursor (0,0), scale 1, inverse 1, glyph 0, in Direct mode: the spacer is inverted too (R101, R132). -/
theorem test_putc_inverted_direct :
    (one (.putc 0x20) { stateT .direct with inverse := true }).trace =
      [.tx 0 5 0 0 [0xFF, 0xFE, 0xFD, 0xFC, 0xFB, 0xFF]] := by decide +kernel

/-- Section 2.5: (19,2,2,0), PUTC 0x41 gives (0,3,2,1). -/
theorem test_putc_wraps_and_saturates :
    let t := one (.putc 0x41) { stateT .direct with column := 19, row := 2, scale := .two }
    t.column = 0 ∧ t.row = 3 ∧ t.endFlag = true := by decide +kernel

/-- Section 2.5: (0,3,1,1), LNBRK. -/
theorem test_lnbrk_saturates :
    let t := one .lnbrk { stateT .direct with row := 3, endFlag := true }
    t.column = 0 ∧ t.row = 3 ∧ t.endFlag = true := by decide +kernel

/-- Section 2.5: SETCUR 255, 255. -/
theorem test_setcur_clamps :
    let t := one (.setcur 255 255) { stateT .direct with endFlag := true }
    t.column = 19 ∧ t.row = 3 ∧ t.endFlag = false ∧ t.trace = [] := by decide +kernel

/-- Section 2.5: SETSCALE 2, and SETSCALE 3 at scale 2. -/
theorem test_setscale : (one (.setscale 2) (stateT .direct)).scale = .two ∧
    one (.setscale 3) { stateT .direct with scale := .two } = { stateT .direct with scale := .two, ill := true } := by
  decide +kernel

/-- Section 2.5: SETINV 1 and SETINV 2. -/
theorem test_setinv : (one (.setinv 1) (stateT .direct)).inverse = true ∧
    one (.setinv 2) (stateT .direct) = { stateT .direct with ill := true } := by decide +kernel

/-- Section 2.5: STATUS 0x07, CLRST gives 0x01. -/
theorem test_clrst_keeps_end :
    hostRead (one .clrst { stateT .direct with endFlag := true, oor := true, ill := true }) 0 = 0x01 := by
  decide +kernel

/-- Section 2.5: STATUS 0x01, NOP. -/
theorem test_nop : one .nop { stateT .direct with endFlag := true } = { stateT .direct with endFlag := true } := by
  decide +kernel

/-- F1 of section 2.3. -/
theorem test_clear_direct : (one .clear (stateT .direct)).trace = [.tx 0 127 0 3 (List.replicate 512 0)] := by
  decide +kernel

/-- F2 of section 2.3: SB[3] = 0x80 reaches PM[3]. -/
theorem test_flush_copies :
    pmByte (one .flush { stateT .softwareBuffer with sb := [(3, 0x80#8)], pm := [(3, 0#8)] }) 3 = 0x80 := by
  decide +kernel

/-- F3 of section 2.3. -/
theorem test_flush_without_shadow : one .flush (stateT .hardwareBuffer) = stateT .hardwareBuffer := by decide +kernel

/-- Section 2.6, HardwareBuffer: the second DOT of `DOT 3, 2; DOT 3, 5`. -/
theorem test_dot_readback :
    let t := one (.dot 3 5) { stateT .hardwareBuffer with pm := [(12, 0x04#8)] }
    t.pm = [(12, 0x24#8)] ∧ t.trace = [.rd 3 0 0x04, .tx 3 3 0 0 [0x24]] := by decide +kernel

/-- Section 2.6, Direct: the same DOT is lossy (S15). -/
theorem test_dot_direct_is_lossy :
    (one (.dot 3 5) { stateT .direct with pm := [(12, 0x04#8)] }).pm = [(12, 0x20#8)] := by decide +kernel

/-- Section 2.7: `LINE 0, 0, 0, 8` in Direct mode leaves PM[0] = 0x80. -/
theorem test_line_direct_is_lossy : (one (.line 0 0 0 8) (stateT .direct)).pm = [(0, 0x80#8)] := by decide +kernel

/-- Section 2.8: FF from reset. -/
theorem test_reserved80 : hostRead (one (.reserved80 0x7F) (stateT .direct)) 0 = 0x04 := by decide +kernel
theorem test_reserved0B : (one .reserved0B (stateT .direct)).ill = true := by decide +kernel
theorem test_reserved0C : (one (.reserved0C 1) (stateT .direct)).ill = true := by decide +kernel
theorem test_reserved10 : (one (.reserved10 1) (stateT .direct)).ill = true := by decide +kernel
theorem test_reserved20 : (one (.reserved20 1) (stateT .direct)).ill = true := by decide +kernel
theorem test_reserved40 : (one (.reserved40 1) (stateT .direct)).ill = true := by decide +kernel

/-! ### The port -/

/-- Section 2.8: `03` gives BUSY and Collect(0x03, 2, []). -/
theorem test_port_latches_opcode :
    let t := after (step ((stateT .direct).send [0x03])) (stateT .direct)
    t.parse = .collect 0x03 2 [] ∧ hostRead t 0 = 0x08 := by decide +kernel

/-- Section 2.8: `03 05 01`, its last byte. -/
theorem test_port_runs_command :
    let t := after (step { stateT .direct with parse := .collect 0x03 1 [0x05], input := [0x01] }) (stateT .direct)
    t.column = 5 ∧ t.row = 1 ∧ hostRead t 0 = 0x00 := by decide +kernel

/-- CFG of a 32-pixel SoftwareBuffer block with AUTO_SEND (R18). -/
theorem test_cfg : hostRead (stateT .softwareBuffer true) 1 = 0x0C := by decide +kernel

/-- A table word is run by the very next step. -/
theorem test_fetch_word :
    (after (step ((stateT .direct).withFetchWord 24 0x020503)) (stateT .direct)).column = 5 := by decide +kernel

/-- R59: the syntax of `DOT -1, 200`, and an operand the assembler refuses. -/
theorem test_assembler :
    (parseLine "DOT -1, 200".toList).toOption = some (.command (.dot (-1) 200)) ∧
    (parseLine "PUTC 'A'".toList).toOption = some (.command (.putc 0x41)) ∧
    (parseLine "DOT 0, 0x8000".toList).toOption = none := by decide +kernel

/-! ### Witnesses: the hypotheses of every obligation that has some -/

theorem witness_DecodeReturnsEncodedCommand : (Instr.line (-32768) 32767 (-1) 0).wellFormed = true := by decide

theorem witness_EncodeReturnsDecodedBytes :
    decode [0x05#8, 0x07#8, 0x01#8] = .ok (.setinv 0x07#8, [0x01#8]) := by decide

theorem witness_BlockWaitsForAByte : (stateT .direct).cfg.wf = true ∧ (stateT .direct).input = [] := by
  decide +kernel

theorem witness_PortCollectsOperandBytes :
    let s := (stateT .direct).send [0x08]
    let u := { stateT .direct with parse := .collect 0x08 4 [], input := [0x01] }
    s.cfg.wf = true ∧ s.input = [0x08] ∧ s.parse = .idle ∧ commandLength 0x08 ≠ 1 ∧
    u.cfg.wf = true ∧ u.input = [0x01] ∧ u.parse = .collect 0x08 4 [] ∧ (4 : Nat) ≠ 1 := by decide +kernel

theorem witness_StepRunsTheDecodedCommand :
    let s := (stateT .direct).send [0x02]
    let u := { stateT .direct with parse := .collect 0x01 1 [], input := [0x41] }
    s.cfg.wf = true ∧ s.input = [0x02] ∧ s.parse = .idle ∧ decode [0x02#8] = .ok (.lnbrk, []) ∧
    u.cfg.wf = true ∧ u.input = [0x41] ∧ u.parse = .collect 0x01 1 [] ∧
    decode [0x01#8, 0x41#8] = .ok (.putc 0x41, []) := by decide +kernel

theorem witness_RunExecutesTheEncodedCommand :
    let s := (stateT .direct).send (encode (.dot 3 5) ++ [0x07])
    s.cfg.wf = true ∧ (Instr.dot 3 5).wellFormed = true ∧ s.parse = .idle ∧ s.input = encode (.dot 3 5) ++ [0x07] := by
  decide +kernel

theorem witness_EveryStepGoesOn :
    let s := { stateT .direct with parse := .collect 0x09 1 [0, 0, 0, 0, 0, 0, 0], input := [0] }
    s.cfg.wf = true ∧ s.parse.legal = true := by decide +kernel

theorem witness_IllFormedFontIsRefused :
    (State.resetWith { configT .direct false with font := [] }).cfg.wf = false ∧ (stateT .direct).cfg.wf = true := by
  decide +kernel

theorem witness_ResetLeavesTheStatedValues :
    (stateT .direct = State.resetWith (configT .direct false)) ∧
    (stateT .hardwareBuffer).hardReset (configT .direct true) =
      { State.resetWith (configT .direct true) with resets := 1 } := by decide +kernel

/-- The test states are legal. -/
theorem stateT_legal (m : Mode) (a : Bool) : (stateT m a).Legal :=
  ⟨Nat.zero_le _, by cases m <;> cases a <;> decide, rfl, rfl, rfl, rfl, fun _ => rfl, rfl,
    fun e he => absurd he (by simp [stateT])⟩

/-- A test state with an offered byte is legal. -/
theorem stateT_send_legal (m : Mode) (a : Bool) (bs : List Byte) : ((stateT m a).send bs).Legal :=
  ⟨Nat.zero_le _, Nat.zero_lt_succ 3, rfl, rfl, rfl, rfl, fun _ => rfl, rfl,
    fun e he => absurd he (by simp [stateT])⟩

/-- A one-byte command offered to a test state is run by the next step. -/
theorem step_clear (m : Mode) (a : Bool) :
    ∃ t, step ((stateT m a).send [0x06]) = .next t := by
  refine ⟨clearAll { stateT m a with input := [] }, ?_⟩
  have hw : ((stateT m a).send [0x06]).cfg.wf = true := test_font_t_is_well_formed m a
  have hi : ((stateT m a).send [0x06]).input = [0x06] := rfl
  have hp : ((stateT m a).send [0x06]).parse = .idle := rfl
  have ha : acceptByte .idle 0x06 = ⟨.idle, some (0x06, [])⟩ := by decide
  simp only [step, fetch, hw, hi, hp, ha, if_true]
  rfl

theorem witness_StepKeepsTheStateLegal :
    ∃ s t, State.Legal s ∧ step s = .next t :=
  let ⟨t, ht⟩ := step_clear .softwareBuffer true
  ⟨_, t, stateT_send_legal .softwareBuffer true [0x06], ht⟩

theorem witness_StepKeepsPanelExplainedByTrace :
    ∃ s t, panelIsTrace s ∧ readsSeeLastWrite s ∧ step s = .next t :=
  let ⟨t, ht⟩ := step_clear .hardwareBuffer false
  ⟨(stateT .hardwareBuffer false).send [0x06], t, rfl, fun before x p v rest h => absurd h (by simp [stateT]), ht⟩

theorem witness_StepKeepsTheConfiguration : ∃ s t, step s = .next t := ⟨_, step_clear .direct false⟩

/-- A store that holds a zero at every address of a list. -/
def zerosAt (l : List Nat) : Memory := l.map fun a => (a, 0#8)

theorem zerosAt_read? (l : List Nat) (i : Nat) (h : i ∈ l) : (zerosAt l).read? i = some 0#8 := by
  unfold zerosAt
  induction l with
  | nil => simp at h
  | cons a l ih =>
    by_cases e : a = i
    · simp [e]
    · simp [e, ih (by simpa [Ne.symm e] using h)]

/-- A shadow buffer and a panel that agree. -/
def clearedT : State := { (stateT .softwareBuffer true).send [0x06] with sb := zerosAt (List.range 512), pm := zerosAt (List.range 512) }

theorem witness_AutoSendKeepsPanelEqualToShadow :
    ∃ s t, s.cfg.mode = .softwareBuffer ∧ s.cfg.autoSend = true ∧ storesAgree s ∧ step s = .next t := by
  refine ⟨clearedT, clearAll { clearedT with input := [] }, rfl, rfl, fun i hi => ?_, ?_⟩
  · have hi' : i < 512 := hi
    have h := zerosAt_read? (List.range 512) i (List.mem_range.mpr hi')
    have hp : clearedT.pm = zerosAt (List.range 512) := by simp only [clearedT]
    have hs : clearedT.sb = zerosAt (List.range 512) := by simp only [clearedT]
    rw [pmByte, sbByte, hp, hs, h, Option.getD_some, Option.getD_some]
  · have hw : clearedT.cfg.wf = true := test_font_t_is_well_formed .softwareBuffer true
    have hi : clearedT.input = [0x06] := rfl
    have hp : clearedT.parse = .idle := rfl
    have ha : acceptByte .idle 0x06 = ⟨.idle, some (0x06, [])⟩ := by decide
    simp only [step, fetch, hw, hi, hp, ha, if_true]
    rfl

theorem witness_DeferredModeLeavesThePanelAlone :
    ∃ s t, s.cfg.mode = .softwareBuffer ∧ s.cfg.autoSend = false ∧ Instr.dot 0 31 ≠ .clear ∧
      Instr.dot 0 31 ≠ .flush ∧ exec (.dot 0 31) s = .next t :=
  ⟨stateT .softwareBuffer, _, rfl, rfl, by decide, by decide, rfl⟩

theorem witness_OnlyClearDarkensPixels :
    (∃ s t, Instr.line 0 0 5 1 ≠ .clear ∧ exec (.line 0 0 5 1) s = .next t ∧ s.cfg.mode = .hardwareBuffer) ∧
    ∃ s t, Instr.flush ≠ .clear ∧ exec .flush s = .next t ∧ s.cfg.mode = .softwareBuffer :=
  ⟨⟨stateT .hardwareBuffer, _, by decide, rfl, rfl⟩, ⟨stateT .softwareBuffer, _, by decide, rfl, rfl⟩⟩

theorem witness_OnlyClrstClearsConditions :
    ∃ s t, Instr.nop ≠ .clrst ∧ exec .nop s = .next t ∧ s.oor = true ∧ s.ill = true :=
  ⟨{ stateT .direct with oor := true, ill := true }, _, by decide, rfl, rfl, rfl⟩

theorem witness_OnlyPutcWritesLastByte :
    (∃ s t, exec (.putc 0xD0) s = .next t) ∧ ∃ s t, exec .clear s = .next t ∧ ∀ b, Instr.clear ≠ .putc b := by
  refine ⟨⟨stateT .direct, ?_⟩, ⟨stateT .direct, _, rfl, fun b => by simp⟩⟩
  have hw : (stateT .direct).cfg.wf = true := test_font_t_is_well_formed .direct false
  simp only [exec, execPutc, hw, if_true]
  exact ⟨_, rfl⟩

theorem witness_EndFlagHasItsWritersOnly :
    (∃ s t, exec .clrst s = .next t ∧ (∀ c r, Instr.clrst ≠ .setcur c r) ∧ s.endFlag = true) ∧
    ∃ s t, exec .lnbrk s = .next t ∧ s.endFlag = false ∧ t.endFlag = true :=
  ⟨⟨{ stateT .direct with endFlag := true }, _, rfl, fun c r => by simp, rfl⟩,
    ⟨{ stateT .direct with row := 3 }, _, rfl, rfl, by decide +kernel⟩⟩

theorem witness_CommandsWriteOnlyTheirState :
    ∃ s t, exec .nop s = .next t ∧ (∀ b, Instr.nop ≠ .putc b) ∧ Instr.nop ≠ .lnbrk ∧
      (∀ c r, Instr.nop ≠ .setcur c r) ∧ (∀ v, Instr.nop ≠ .setscale v) ∧ (∀ v, Instr.nop ≠ .setinv v) ∧
      Instr.nop ≠ .clrst ∧ Instr.nop ≠ .reserved0B ∧ (∀ l, Instr.nop ≠ .reserved0C l) ∧
      (∀ l, Instr.nop ≠ .reserved10 l) ∧ (∀ l, Instr.nop ≠ .reserved20 l) ∧ (∀ l, Instr.nop ≠ .reserved40 l) ∧
      (∀ l, Instr.nop ≠ .reserved80 l) ∧ Instr.nop ≠ .clear ∧ (∀ x y, Instr.nop ≠ .dot x y) ∧
      (∀ x y z w, Instr.nop ≠ .line x y z w) ∧ Instr.nop ≠ .flush ∧ s.cfg.mode ≠ .softwareBuffer :=
  ⟨stateT .direct, _, rfl, by simp [stateT, configT]⟩

theorem witness_ClearErasesPixelHistory :
    ∃ s t s', sameButPixels s t ∧ s ≠ t ∧ execAll [.clear, .dot 0 0] s = .next s' :=
  ⟨stateT .hardwareBuffer, { stateT .hardwareBuffer with pm := [(7, 0x55#8)] }, _, rfl,
    by intro h; exact absurd (congrArg State.pm h) (by simp [stateT]), rfl⟩

theorem witness_StatusMirrorsItsBits : 4 ≤ 4 ∧ 4 ≤ 7 := by decide

theorem witness_CfgReportsTheConfiguration : 2 ≤ (0x02#8 : Byte).toNat ∧ 2 ≤ (0xFF#8 : Byte).toNat := by decide

theorem witness_NopChangesNothing :
    let s := { stateT .direct with parse := .collect 0x03 2 [], input := [0x00] }
    s.cfg.wf = true ∧ s.parse = .collect 0x03 2 [] ∧ (2 : Nat) ≠ 1 ∧ s.input = [0x00] := by decide +kernel

theorem witness_SetscaleSetsOrRaisesIll : 0#8 ≠ 1#8 ∧ 0#8 ≠ 2#8 ∧ 3#8 ≠ 1#8 ∧ 3#8 ≠ 2#8 := by decide

theorem witness_SetinvSetsOrRaisesIll : 2#8 ≠ 0#8 ∧ 2#8 ≠ 1#8 := by decide

theorem witness_LineBreakAdvancesTheRow : (stateT .direct).cfg.wf = true := by decide +kernel

theorem witness_RepeatedLineBreaksSaturate :
    let s := { stateT .direct with row := 3 }
    s.row.toNat < pages s ∧ 0 < 4 := by decide +kernel

theorem witness_ReservedOpcodesRaiseIll :
    let s := (stateT .direct).send [0x0B, 0x00]
    let u := (stateT .direct).send [0xFF]
    0x0B ≤ (0x0B#8 : Byte).toNat ∧ s.cfg.wf = true ∧ s.parse = .idle ∧ s.input = [0x0B, 0x00] ∧
    0x0B ≤ (0xFF#8 : Byte).toNat ∧ u.input = [0xFF] := by decide +kernel

theorem witness_ClearZeroesTheStores :
    0 < fbSize (stateT .softwareBuffer) ∧ fbSize (stateT .softwareBuffer) ≤ 512 ∧
    (stateT .softwareBuffer).cfg.mode = .softwareBuffer ∧ (stateT .direct).cfg.mode ≠ .softwareBuffer := by
  decide +kernel

theorem witness_FlushCopiesShadowToPanel :
    511 < fbSize (stateT .softwareBuffer) ∧ fbSize (stateT .softwareBuffer) ≤ 512 ∧
    (stateT .softwareBuffer).cfg.mode = .softwareBuffer ∧ (stateT .hardwareBuffer).cfg.mode ≠ .softwareBuffer := by
  decide +kernel

theorem witness_AsciiBytesResolveDirectly :
    32 ≤ (0x20#8 : Byte).toNat ∧ (0x20#8 : Byte).toNat ≤ 127 ∧ 32 ≤ (0x7F#8 : Byte).toNat ∧
    (0x7F#8 : Byte).toNat ≤ 127 := by decide

/-- A byte at each end of each range of the map. -/
theorem witness_ResolverMapsSingleBytes :
    (0x0A#8 : Byte).toNat = 10 ∧ (0x1F#8 : Byte).toNat < 32 ∧ (0x1F#8 : Byte).toNat ≠ 10 ∧
    128 ≤ (0x80#8 : Byte).toNat ∧ (0x8F#8 : Byte).toNat ≤ 143 ∧ ((0x00#8 : Byte), (0x80#8 : Byte)) ≠ (0xD0, 0x81) ∧
    ((0x00#8 : Byte), (0x80#8 : Byte)) ≠ (0xE2, 0x80) ∧
    144 ≤ (0x90#8 : Byte).toNat ∧ (0xBF#8 : Byte).toNat ≤ 191 ∧ ((0x00#8 : Byte), (0x90#8 : Byte)) ≠ (0xD1, 0x91) ∧
    ((0x00#8 : Byte), (0xBF#8 : Byte)) ≠ (0x80, 0x93) ∧ 192 ≤ (0xC0#8 : Byte).toNat := by decide

theorem witness_ResolvedGlyphsAreInTheFont :
    (configT .direct false).wf = true ∧ resolve (configT .direct false).substAsCode 0x8F 0x00 = .glyph 158 := by
  decide +kernel

theorem witness_StretchDoublesEveryBit : 7 < 8 := by decide

theorem witness_SuppressedByteIsOnlyRecorded :
    (stateT .direct).cfg.wf = true ∧ 192 ≤ (0xC0#8 : Byte).toNat ∧
    ({ stateT .direct with lastByte := 0xE2 }).lastByte = 0xE2 := by decide +kernel

theorem witness_PutcAdvancesTheCursor :
    let s := { stateT .direct with column := 17, scale := .two }
    let u := { stateT .direct with column := 18, scale := .two }
    s.cfg.wf = true ∧ resolve s.cfg.substAsCode 0x0D s.lastByte = .outOfRange ∧
    resolve s.cfg.substAsCode 0x41 s.lastByte = .glyph 33 ∧ s.column.toNat + s.scale.toNat < 20 ∧
    20 ≤ u.column.toNat + u.scale.toNat := by decide +kernel

theorem witness_PutcMergesTheGlyph :
    let s := { stateT .direct with column := 19, row := 3, scale := .two }
    s.cfg.wf = true ∧ resolve s.cfg.substAsCode 0x41 s.lastByte = .glyph 33 ∧
    resolve s.cfg.substAsCode 0x00 s.lastByte = .outOfRange ∧
    (clipWrites (pages s) (glyphWrites s 33)).length = 12 ∧ s.column.toNat ≤ 19 ∧ s.row.toNat < pages s ∧
    s.cfg.mode = .direct ∧ (stateT .hardwareBuffer).cfg.mode = .hardwareBuffer ∧
    (stateT .softwareBuffer true).cfg.mode = .softwareBuffer ∧ (stateT .softwareBuffer true).cfg.autoSend = true ∧
    (stateT .softwareBuffer).cfg.autoSend = false := by decide +kernel

theorem witness_GlyphWritesAtScaleOne :
    (stateT .direct).scale = .one ∧ (stateT .direct).cfg.font[16]? = some ⟨0x10, 0x11, 0x12, 0x13, 0x14, 0⟩ := by
  decide +kernel

theorem witness_GlyphWritesAtScaleTwo :
    let s := { stateT .direct with scale := .two }
    s.scale = .two ∧ s.cfg.font[158]? = some ⟨158, 159, 160, 161, 162, 0⟩ := by decide +kernel

theorem witness_TwentyCharactersFillARow :
    let s := { stateT .direct with row := 3 }
    s.cfg.wf = true ∧ s.column = 0 ∧ s.scale = .one ∧ s.row.toNat < pages s ∧
    (List.replicate 20 (0x41#8 : Byte)).length = 20 ∧
    ∀ b ∈ List.replicate 20 (0x41#8 : Byte), 32 ≤ b.toNat ∧ b.toNat ≤ 127 := by decide +kernel

theorem witness_DotOutOfBoundsChangesNothing :
    let s := stateT .direct
    (-1 : Int) < 0 ∧ (128 : Int) ≥ 128 ∧ (32 : Int) ≥ 8 * (pages s : Int) := by decide +kernel

theorem witness_DotWritesItsPixel :
    let s := stateT .hardwareBuffer
    (0 : Int) ≤ 127 ∧ (127 : Int) < 128 ∧ (0 : Int) ≤ 31 ∧ (31 : Int) < 8 * (pages s : Int) ∧
    fbIndex (pages s) 127 (31 / 8) = 511 ∧ 1#8 <<< (31 % 8) = 0x80#8 := by decide +kernel

theorem witness_RepeatedDotLeavesStoresAlone :
    ∃ s t u, exec (.dot 1 1) s = .next t ∧ exec (.dot 1 1) t = .next u := ⟨stateT .hardwareBuffer, _, _, rfl, rfl⟩

theorem witness_FastPathsLeaveOutTheFarEndpoint :
    0 < ((1 : Int) - 5).natAbs ∧ 3 < ((5 : Int) - 1).natAbs ∧ (5 : Int) ≠ 0 ∧ 4 < ((0 : Int) - 5).natAbs := by decide

theorem witness_GeneralLineReachesItsEndpoint : (4 : Int) ≠ 0 ∧ (2 : Int) ≠ 0 := by decide

theorem witness_GeneralLineStepsAreAdjacent :
    (0 : Int) ≠ 3 ∧ (0 : Int) ≠ 1 ∧ (linePoints 0 0 3 1)[1]? = some (1, 0) ∧ (linePoints 0 0 3 1)[2]? = some (2, 1) ∧
    (3, 1) ∈ linePoints 0 0 3 1 := by decide

/-- The operands of the two statements about `err`; the pass with err = 148 is the one that R194's bound misses. -/
theorem witness_GeneralLineFitsThirtyTwoBits :
    fitsI16 0 ∧ fitsI16 100 ∧ fitsI16 1 ∧ (0 : Int) ≠ 100 ∧ (0 : Int) ≠ 1 ∧ 100 = ((100 : Int) - 0).natAbs ∧
    1 = ((1 : Int) - 0).natAbs ∧ ⟨51, 1, 148⟩ ∈ generalPasses 0 0 100 1 ∧ 2 * (148 : Int) > -1 := by
  decide +kernel

theorem witness_GeneralLineErrStaysInStatedBound :
    fitsI16 0 ∧ fitsI16 100 ∧ fitsI16 1 ∧ (0 : Int) ≠ 100 ∧ (0 : Int) ≠ 1 ∧ ⟨0, 0, 99⟩ ∈ generalPasses 0 0 100 1 := by
  decide +kernel

theorem witness_LineLightsExactlyItsPoints :
    let s := stateT .softwareBuffer true
    pixelInBounds s 127 31 = true ∧ pixelInBounds s 0 0 = true ∧ s.cfg.mode = .softwareBuffer ∧
    s.cfg.autoSend = true ∧ (0, 0) ∈ linePoints 0 0 3 1 ∧ (stateT .softwareBuffer).cfg.autoSend = false ∧
    (stateT .hardwareBuffer).cfg.mode = .hardwareBuffer ∧
    ∀ q ∈ linePoints 0 0 3 1, pixelInBounds s q.1 q.2 = true → pixelIndex s q.1 q.2 ≠ 511 := by decide +kernel

theorem witness_DirectLineKeepsTheLastPoint : (stateT .direct).cfg.mode = .direct := by decide +kernel

end Sys2Proof.Tests
end

section
/-! PROOF. The reserved opcodes 0x0B to 0xFF (R55): what each of the six rows does, which bytes a row matches, and the
step that accepts such a byte in Idle. -/

namespace Sys2Proof.Machine

/-! ### What a reserved command does -/

@[simp] theorem exec_reserved0B (s : State) : exec .reserved0B s = .next { s with ill := true } := rfl
@[simp] theorem exec_reserved0C (low : BitVec 2) (s : State) :
    exec (.reserved0C low) s = .next { s with ill := true } := rfl
@[simp] theorem exec_reserved10 (low : BitVec 4) (s : State) :
    exec (.reserved10 low) s = .next { s with ill := true } := rfl
@[simp] theorem exec_reserved20 (low : BitVec 5) (s : State) :
    exec (.reserved20 low) s = .next { s with ill := true } := rfl
@[simp] theorem exec_reserved40 (low : BitVec 6) (s : State) :
    exec (.reserved40 low) s = .next { s with ill := true } := rfl
@[simp] theorem exec_reserved80 (low : BitVec 7) (s : State) :
    exec (.reserved80 low) s = .next { s with ill := true } := rfl

/-- Whichever row the decoder picks for a reserved byte, the meaning is the same. -/
theorem exec_decodeReserved (op : Byte) (s : State) :
    exec (decodeReserved op) s = .next { s with ill := true } := by
  unfold decodeReserved
  split_ifs <;> simp

/-! ### A reserved byte is a whole command -/

/-- A reserved byte is none of the eleven defined opcodes. -/
theorem ne_of_reserved {op k : Byte} (hop : 0x0B ≤ op.toNat) (hk : k.toNat < 0x0B) : op ≠ k := by
  rintro rfl
  omega

theorem commandLength_of_reserved {op : Byte} (hop : 0x0B ≤ op.toNat) : commandLength op = 1 := by
  have hne : ∀ k : Byte, k.toNat < 0x0B → op ≠ k := fun _ => ne_of_reserved hop
  simp [commandLength, hne]

theorem decodeOp_of_reserved {op : Byte} (hop : 0x0B ≤ op.toNat) (rest : List Byte) :
    decodeOp op rest = .ok (decodeReserved op, rest) := by
  have hne : ∀ k : Byte, k.toNat < 0x0B → op ≠ k := fun _ => ne_of_reserved hop
  simp [decodeOp, hne]

theorem decodeExact_of_reserved {op : Byte} (hop : 0x0B ≤ op.toNat) :
    decodeExact [op] = some (decodeReserved op) := by
  simp [decodeExact, decode, decodeOp_of_reserved hop]

/-- In Idle, a byte that is a command by itself is executed by the step that accepts it (R57). -/
theorem step_of_oneByteCommand {s : State} {op : Byte} {rest : List Byte} {i : Instr} (hwf : s.cfg.wf = true)
    (hidle : s.parse = .idle) (hin : s.input = op :: rest) (hlen : commandLength op = 1)
    (hdec : decodeExact [op] = some i) : step s = exec i { s with input := rest } := by
  have hacc : acceptByte s.parse op = ⟨s.parse, some (op, [])⟩ := by simp [acceptByte, hidle, hlen]
  have hfetch : fetch s = .command i { s with input := rest } := by simp [fetch, hwf, hin, hacc, hdec]
  simp [step, hfetch]

/-! ### The match and mask rows -/

/-- Masking off the low `k` bits leaves the row of `2 ^ k` values that begins at the aligned value `m`. -/
theorem and_highMask_eq_iff {w : Nat} (x m : BitVec w) (k : Nat) (hm : 2 ^ k ∣ m.toNat) :
    x &&& (BitVec.allOnes w <<< k) = m ↔ m.toNat ≤ x.toNat ∧ x.toNat < m.toNat + 2 ^ k := by
  have hmask : (x &&& (BitVec.allOnes w <<< k)).toNat = x.toNat / 2 ^ k * 2 ^ k := by
    rw [← BitVec.shiftLeft_ushiftRight, BitVec.toNat_shiftLeft, BitVec.toNat_ushiftRight, Nat.shiftRight_eq_div_pow,
      Nat.shiftLeft_eq, Nat.mod_eq_of_lt ((Nat.div_mul_le_self _ _).trans_lt x.isLt)]
  obtain ⟨q, hq⟩ := hm
  have hpos : 0 < 2 ^ k := Nat.two_pow_pos k
  rw [← BitVec.toNat_inj, hmask, hq, Nat.mul_comm (2 ^ k) q, Nat.mul_right_cancel_iff hpos,
    Nat.div_eq_iff hpos]
  omega

/-- The six rows of R55 lie end to end and cover 0x0B to 0xFF. -/
theorem reservedRows_iff (op : Byte) : 0x0B ≤ op.toNat ↔
    (op &&& 0xFF#8 = 0x0B#8 ∨ op &&& 0xFC#8 = 0x0C#8 ∨ op &&& 0xF0#8 = 0x10#8 ∨
      op &&& 0xE0#8 = 0x20#8 ∨ op &&& 0xC0#8 = 0x40#8 ∨ op &&& 0x80#8 = 0x80#8) := by
  have row0B : op &&& 0xFF#8 = 0x0B#8 ↔ 0x0B ≤ op.toNat ∧ op.toNat < 0x0C :=
    and_highMask_eq_iff op 0x0B#8 0 (by decide)
  have row0C : op &&& 0xFC#8 = 0x0C#8 ↔ 0x0C ≤ op.toNat ∧ op.toNat < 0x10 :=
    and_highMask_eq_iff op 0x0C#8 2 (by decide)
  have row10 : op &&& 0xF0#8 = 0x10#8 ↔ 0x10 ≤ op.toNat ∧ op.toNat < 0x20 :=
    and_highMask_eq_iff op 0x10#8 4 (by decide)
  have row20 : op &&& 0xE0#8 = 0x20#8 ↔ 0x20 ≤ op.toNat ∧ op.toNat < 0x40 :=
    and_highMask_eq_iff op 0x20#8 5 (by decide)
  have row40 : op &&& 0xC0#8 = 0x40#8 ↔ 0x40 ≤ op.toNat ∧ op.toNat < 0x80 :=
    and_highMask_eq_iff op 0x40#8 6 (by decide)
  have row80 : op &&& 0x80#8 = 0x80#8 ↔ 0x80 ≤ op.toNat ∧ op.toNat < 0x100 :=
    and_highMask_eq_iff op 0x80#8 7 (by decide)
  have hlt : op.toNat < 0x100 := op.isLt
  rw [row0B, row0C, row10, row20, row40, row80]
  omega

/-- Settles O33: the six meanings by their equations, the step because a reserved byte has length 1 and decodes to
one of the six rows, and the match set because the rows are consecutive ranges. -/
theorem reservedOpcodesRaiseIll : Obligations.ReservedOpcodesRaiseIll := by
  refine ⟨fun s => ⟨exec_reserved0B s, fun l => exec_reserved0C l s, fun l => exec_reserved10 l s,
    fun l => exec_reserved20 l s, fun l => exec_reserved40 l s, fun l => exec_reserved80 l s⟩, ?_, reservedRows_iff⟩
  intro s op rest hop hwf hidle hin
  rw [step_of_oneByteCommand hwf hidle hin (commandLength_of_reserved hop) (decodeExact_of_reserved hop)]
  exact exec_decodeReserved op { s with input := rest }

end Sys2Proof.Machine
end

section
/-! PROOF. The resolver and PUTC: the ASCII path (R72), the bytes without a result of their own (R74, R79), and what a
PUTC of such a byte does. -/

namespace Sys2Proof.Machine

/-! ### What the resolver answers -/

/-- The ASCII path reads neither the byte before nor the reading of the substitutes (R72). -/
theorem resolve_of_ascii (asCode : Bool) {b : Byte} (last : Byte) (hlo : 32 ≤ b.toNat) (hhi : b.toNat ≤ 127) :
    resolve asCode b last = .glyph (b.toNat - 32) := by
  have hNotNewline : b.toNat ≠ 10 := by omega
  have hNotControl : ¬ b.toNat < 32 := by omega
  simp only [resolve, if_neg hNotNewline, if_pos hhi, if_neg hNotControl]

/-- No digraph ends in a lead byte: the second bytes of the table are 145, 129, 128 and 147 (R74, R79). -/
theorem resolve_of_leadByte (asCode : Bool) {b : Byte} (last : Byte) (hb : 192 ≤ b.toNat) :
    resolve asCode b last = .suppress := by
  have hNoDigraph : b.toNat ≠ 145 ∧ b.toNat ≠ 129 ∧ b.toNat ≠ 128 ∧ b.toNat ≠ 147 := by omega
  obtain ⟨h145, h129, h128, h147⟩ := hNoDigraph
  have hNotNewline : b.toNat ≠ 10 := by omega
  have hNotAscii : ¬ b.toNat ≤ 127 := by omega
  have hNotExtended : ¬ b.toNat ≤ 191 := by omega
  simp [resolve, hNotNewline, hNotAscii, h145, h129, h128, h147, hNotExtended]

/-- The first half of the long dash (R74, entry 3). -/
theorem resolve_longDashFirstHalf (asCode : Bool) : resolve asCode 0x80#8 0xE2#8 = .suppress := rfl

/-! ### What PUTC does -/

/-- With a well-formed FONT, PUTC acts on the resolver's result after recording the raw byte (R80, R153). -/
theorem exec_putc_of_wf {s : State} (hwf : s.cfg.wf = true) (b : Byte) :
    exec (.putc b) s =
      .next (actOnResult (resolve s.cfg.substAsCode b s.lastByte) { s with lastByte := b }) :=
  if_pos hwf

@[simp] theorem actOnResult_suppress (s : State) : actOnResult .suppress s = s := rfl

/-- A byte that the resolver suppresses is recorded, and that is all (R79, R80). -/
theorem exec_putc_of_suppress {s : State} {b : Byte} (hwf : s.cfg.wf = true)
    (hres : resolve s.cfg.substAsCode b s.lastByte = .suppress) :
    exec (.putc b) s = .next { s with lastByte := b } := by
  rw [exec_putc_of_wf hwf, hres, actOnResult_suppress]

/-! ### The obligations -/

/-- Settles O36: the three tests before R72's answer all fall the same way for a byte from 32 to 127. -/
theorem asciiBytesResolveDirectly : Obligations.AsciiBytesResolveDirectly :=
  fun asCode _ last hlo hhi => resolve_of_ascii asCode last hlo hhi

/-- Settles O42: a lead byte and the first half of the long dash are the two ways to be suppressed, and a suppressed
byte is only recorded. -/
theorem suppressedByteIsOnlyRecorded : Obligations.SuppressedByteIsOnlyRecorded := by
  intro s b hwf hcase
  apply exec_putc_of_suppress hwf
  obtain hLead | ⟨hLast, rfl⟩ := hcase
  · exact resolve_of_leadByte _ _ hLead
  · rw [hLast]
    exact resolve_longDashFirstHalf _

end Sys2Proof.Machine
end

section
/-! PROOF. The Bit-Stretch Unit (R90): which input bit each output bit of `stretch` copies. -/

namespace Sys2Proof.Machine

/-! ### One pass of the loop -/

/-- The body of `stretch`'s loop: copy input bit `i` to its two output bits. -/
def stretchStep (m : Byte) (r : Half) (i : Nat) : Half :=
  if m.getLsbD i then r ||| (3#16 <<< (2 * i)) else r

theorem stretch_eq_foldl (m : Byte) : stretch m = (List.range 8).foldl (stretchStep m) 0#16 := rfl

/-- The mask of pass `i` covers the two positions whose half is `i`. -/
theorem getLsbD_stretchMask (i : Nat) {j : Nat} (hj : j < 16) :
    (3#16 <<< (2 * i)).getLsbD j = decide (j / 2 = i) := by
  have hThree : Nat.testBit 3 (j - 2 * i) = decide (j - 2 * i < 2) := Nat.testBit_two_pow_sub_one 2 _
  rw [BitVec.getLsbD_shiftLeft, BitVec.getLsbD_ofNat, hThree, Bool.eq_iff_iff]
  simp only [Bool.and_eq_true, Bool.not_eq_true', decide_eq_true_eq, decide_eq_false_iff_not]
  omega

theorem getLsbD_stretchStep (m : Byte) (r : Half) (i : Nat) {j : Nat} (hj : j < 16) :
    (stretchStep m r i).getLsbD j = (r.getLsbD j || (decide (j / 2 = i) && m.getLsbD i)) := by
  unfold stretchStep
  split
  next hbit => rw [BitVec.getLsbD_or, getLsbD_stretchMask i hj, hbit, Bool.and_true]
  next hbit => simp [hbit]

/-! ### The whole loop -/

/-- After `n` passes the output bits below `2n` are set as R90 says, and the others are still zero. -/
theorem getLsbD_foldl_stretchStep (m : Byte) (n : Nat) {j : Nat} (hj : j < 16) :
    ((List.range n).foldl (stretchStep m) 0#16).getLsbD j = (decide (j / 2 < n) && m.getLsbD (j / 2)) := by
  induction n with
  | zero => simp
  | succ n ih =>
    rw [List.range_succ, List.foldl_append, List.foldl_cons, List.foldl_nil, getLsbD_stretchStep _ _ _ hj, ih]
    obtain hlt | rfl | hgt := Nat.lt_trichotomy (j / 2) n
    · simp [hlt, hlt.ne, Nat.lt_succ_of_lt hlt]
    · simp
    · simp [hgt.not_gt, hgt.ne', Nat.not_le.mpr hgt]

/-- Output bit `j` is input bit `j / 2`; past the 16 output bits both are false. -/
@[simp] theorem getLsbD_stretch (m : Byte) (j : Nat) : (stretch m).getLsbD j = m.getLsbD (j / 2) := by
  obtain hj | hj := Nat.lt_or_ge j 16
  · have hPass : j / 2 < 8 := by omega
    rw [stretch_eq_foldl, getLsbD_foldl_stretchStep m 8 hj, decide_eq_true hPass, Bool.true_and]
  · have hPast : 8 ≤ j / 2 := by omega
    rw [BitVec.getLsbD_of_ge _ _ hj, BitVec.getLsbD_of_ge _ _ hPast]

/-! ### The obligation -/

/-- Settles O40: the half of `2i` and of `2i + 1` is `i`. -/
theorem stretchDoublesEveryBit : Obligations.StretchDoublesEveryBit := by
  intro m i _
  have hEven : 2 * i / 2 = i := by omega
  have hOdd : (2 * i + 1) / 2 = i := by omega
  rw [getLsbD_stretch, getLsbD_stretch, hEven, hOdd]
  exact ⟨rfl, rfl⟩

end Sys2Proof.Machine
end

section
/-! PROOF. CLEAR (R109) and DOT (R102, R104, R108): the two commands whose writes need no induction over a write list.
What a run of writes leaves at an index it names, and what a transaction over the whole panel shows. -/

namespace Sys2Proof.Machine

theorem pixelOnly_cfg {s t : State} (h : pixelOnly s t) : t.cfg = s.cfg := by rw [h]

theorem pixelOnly_resets {s t : State} (h : pixelOnly s t) : t.resets = s.resets := by rw [h]

/-! ### Runs of writes to distinct indices -/

/-- In a run of writes that names no index twice, every write is still there at the end. -/
theorem Memory.read?_writeAll_mem {cells : List Host.Cell} (m : Memory) {c : Host.Cell}
    (hnodup : (cells.map Prod.fst).Nodup) (hc : c ∈ cells) : (m.writeAll cells).read? c.1 = some c.2 := by
  induction cells generalizing m with
  | nil => cases hc
  | cons d cells ih =>
    obtain ⟨hfresh, hnodup⟩ := List.nodup_cons.1 hnodup
    change ((m.write d.1 d.2).writeAll cells).read? c.1 = some c.2
    obtain rfl | hc := List.mem_cons.1 hc
    · have hlast : ∀ e ∈ cells, e.1 ≠ c.1 := fun e he h => hfresh (h ▸ List.mem_map_of_mem he)
      rw [Memory.read?_writeAll_other _ _ _ hlast, Memory.read?_write_same]
    · exact ih _ hnodup hc

/-! ### A transaction over the whole panel -/

theorem panelTxAll_pm (s : State) (data : List Byte) :
    (panelTxAll s data).pm = s.pm.writeAll (data.zipIdx.map fun d => (d.2, d.1)) := by
  have hpages : 0 < pages s := by have := pages_eq s; omega
  rw [← windowCells_all (pages s) hpages]
  rfl

/-- Byte `i` of the data is what panel byte `i` becomes (R36, R110). -/
theorem pmByte_panelTxAll_of_getElem? (s : State) {data : List Byte} {i : Nat} {v : Byte}
    (h : data[i]? = some v) : pmByte (panelTxAll s data) i = v := by
  have hnodup : ((data.zipIdx.map fun d => (d.2, d.1)).map Prod.fst).Nodup := by
    rw [List.map_map]
    exact (List.zipIdx_map_snd 0 data).symm ▸ List.nodup_range'
  have hmem : (i, v) ∈ data.zipIdx.map fun d => (d.2, d.1) :=
    List.mem_map.2 ⟨(v, i), List.mem_zipIdx_iff_getElem?.2 h, rfl⟩
  rw [pmByte, panelTxAll_pm, Memory.read?_writeAll_mem _ hnodup hmem, Option.getD_some]

/-- Past the data the panel is as before. -/
theorem pmByte_panelTxAll_of_length_le (s : State) {data : List Byte} {i : Nat} (h : data.length ≤ i) :
    pmByte (panelTxAll s data) i = pmByte s i := by
  have hother : ∀ c ∈ data.zipIdx.map fun d => (d.2, d.1), c.1 ≠ i := by
    intro c hc
    obtain ⟨d, hd, rfl⟩ := List.mem_map.1 hc
    have := List.snd_lt_of_mem_zipIdx hd
    dsimp only
    omega
  rw [pmByte, panelTxAll_pm, Memory.read?_writeAll_other _ _ _ hother]
  rfl

/-! ### CLEAR -/

@[simp] theorem exec_clear (s : State) : exec .clear s = .next (clearAll s) := rfl

theorem sbByte_shadowClear_of_lt (s : State) {i : Nat} (h : i < fbSize s) : sbByte (shadowClear s) i = 0x00#8 := by
  have hnodup : (((List.range (fbSize s)).map fun i => (i, 0#8)).map Prod.fst).Nodup := by
    simpa [List.map_map, Function.comp_def] using List.nodup_range
  have hmem : (i, 0#8) ∈ (List.range (fbSize s)).map fun i => (i, 0#8) :=
    List.mem_map.2 ⟨i, List.mem_range.2 h, rfl⟩
  rw [sbByte, shadowClear_sb, Memory.read?_writeAll_mem _ hnodup hmem, Option.getD_some]

theorem sbByte_shadowClear_of_le (s : State) {i : Nat} (h : fbSize s ≤ i) :
    sbByte (shadowClear s) i = sbByte s i := by
  have hother : ∀ c ∈ (List.range (fbSize s)).map fun i => (i, 0#8), c.1 ≠ i := by
    intro c hc
    obtain ⟨j, hj, rfl⟩ := List.mem_map.1 hc
    have := List.mem_range.1 hj
    dsimp only
    omega
  rw [sbByte, shadowClear_sb, Memory.read?_writeAll_other _ _ _ hother]
  rfl

theorem clearAll_of_shadow {s : State} (h : s.cfg.mode = .softwareBuffer) :
    clearAll s = panelTxAll (shadowClear s) (List.replicate (fbSize s) 0#8) := by
  simp [clearAll, hasShadow, h]

theorem clearAll_of_noShadow {s : State} (h : s.cfg.mode ≠ .softwareBuffer) :
    clearAll s = panelTxAll s (List.replicate (fbSize s) 0#8) := by
  simp [clearAll, hasShadow, h]

/-- The panel and the bus see the same transaction whether or not there is a shadow buffer (R109). -/
theorem clearAll_panel (s : State) :
    (clearAll s).pm = (panelTxAll s (List.replicate (fbSize s) 0#8)).pm ∧
    (clearAll s).trace = (panelTxAll s (List.replicate (fbSize s) 0#8)).trace := by
  by_cases h : s.cfg.mode = .softwareBuffer
  · rw [clearAll_of_shadow h]; exact ⟨rfl, rfl⟩
  · rw [clearAll_of_noShadow h]; exact ⟨rfl, rfl⟩

theorem pmByte_clearAll (s : State) (i : Nat) :
    pmByte (clearAll s) i = pmByte (panelTxAll s (List.replicate (fbSize s) 0#8)) i := by
  rw [pmByte, (clearAll_panel s).1, pixelOnly_resets (pixelOnly_clearAll s)]
  rfl

/-- Settles O34: CLEAR is one transaction of zero bytes over the whole panel, after the shadow buffer, where there is
one, has had a zero written to each of its indices. -/
theorem clearZeroesTheStores : Obligations.ClearZeroesTheStores := by
  refine ⟨rfl, fun s => ⟨clearAll s, exec_clear s, pixelOnly_clearAll s, fun i hi => ?_, fun i hi => ?_,
    fun hmode => ?_, fun hmode => ?_, (clearAll_panel s).2⟩⟩
  · rw [pmByte_clearAll]
    exact pmByte_panelTxAll_of_getElem? s (List.getElem?_replicate_of_lt hi)
  · rw [pmByte_clearAll]
    exact pmByte_panelTxAll_of_length_le s (List.length_replicate.trans_le hi)
  · rw [clearAll_of_shadow hmode]
    exact ⟨fun i hi => sbByte_shadowClear_of_lt s hi, fun i hi => sbByte_shadowClear_of_le s hi⟩
  · rw [clearAll_of_noShadow hmode]
    rfl

/-! ### WriteBytes by mode -/

theorem writeBytes_of_direct {s : State} (h : s.cfg.mode = .direct) (ws : List ByteWrite) :
    writeBytes s ws = directWrite s (clipWrites (pages s) ws) := by
  simp [writeBytes, h]

theorem writeBytes_of_hardwareBuffer {s : State} (h : s.cfg.mode = .hardwareBuffer) (ws : List ByteWrite) :
    writeBytes s ws = (clipWrites (pages s) ws).foldl readbackWrite s := by
  simp [writeBytes, h]

theorem writeBytes_of_softwareBuffer {s : State} (h : s.cfg.mode = .softwareBuffer) (ws : List ByteWrite) :
    writeBytes s ws = (clipWrites (pages s) ws).foldl shadowWrite s := by
  simp [writeBytes, h]

/-! ### DOT -/

@[simp] theorem exec_dot (x y : Int) (s : State) : exec (.dot x y) s = .next (dot s x y) := rfl

/-- The byte write of a pixel (R33). -/
def pixelWrite (x y : Int) : ByteWrite := ⟨x.toNat, pixelPage y, pixelMask y⟩

/-- A DOT on the panel is one byte write, which nothing clips (R33, R113, R180). -/
theorem dot_of_inBounds {s : State} {x y : Int} (hx : 0 ≤ x) (hx' : x < 128) (hy : 0 ≤ y)
    (hy' : y < 8 * (pages s : Int)) :
    dot s x y = writeBytes s [pixelWrite x y] ∧ clipWrites (pages s) [pixelWrite x y] = [pixelWrite x y] := by
  have hbounds : ¬(x < 0 ∨ x ≥ panelWidth ∨ y < 0 ∨ y ≥ panelHeight s) := by
    simp only [panelWidth, panelHeight]; omega
  have hpixel : pixelInBounds s x y = true := decide_eq_true (by simp only [panelWidth, panelHeight]; omega)
  have hbyte : (pixelWrite x y).inBounds (pages s) = true :=
    decide_eq_true (by simp only [pixelWrite, pixelPage, panelWidth]; omega)
  exact ⟨by rw [dot, if_neg hbounds, setPixel, if_pos hpixel]; rfl, List.filter_cons_of_pos hbyte⟩

/-- Settles O49: the write list of a DOT in bounds is the one byte of its pixel, so each mode's single-byte write says
everything. -/
theorem dotWritesItsPixel : Obligations.DotWritesItsPixel := by
  rintro s x y i m hx hx' hy hy' rfl rfl
  obtain ⟨hdot, hclip⟩ := dot_of_inBounds hx hx' hy hy'
  refine ⟨dot s x y, exec_dot x y s, pixelOnly_dot s x y, fun hmode => ?_, fun hmode => ?_, fun hmode => ?_⟩
  · have hrun : dot s x y = panelTx s x.toNat x.toNat (pixelPage y) (pixelPage y) [pixelMask y] := by
      rw [hdot, writeBytes_of_direct hmode, hclip]; rfl
    rw [hrun]
    exact ⟨rfl, fun a => (pmByte_panelTx_single s _ _ _ a).trans (if_congr eq_comm rfl rfl), rfl⟩
  · have hrun : dot s x y = readbackWrite s (pixelWrite x y) := by
      rw [hdot, writeBytes_of_hardwareBuffer hmode, hclip]; rfl
    obtain ⟨hpm, hsb, htrace⟩ := readbackWrite_spec s (pixelWrite x y)
    rw [hrun]
    exact ⟨hsb, fun a => (hpm a).trans (if_congr eq_comm rfl rfl), htrace⟩
  · have hrun : dot s x y = shadowWrite s (pixelWrite x y) := by
      rw [hdot, writeBytes_of_softwareBuffer hmode, hclip]; rfl
    obtain ⟨hsb, hpush, hdefer⟩ := shadowWrite_spec s (pixelWrite x y)
    rw [hrun]
    refine ⟨fun a => (hsb a).trans (if_congr eq_comm rfl rfl), fun hsend => ?_, hdefer⟩
    obtain ⟨hpm, htrace⟩ := hpush hsend
    exact ⟨fun a => (hpm a).trans (if_congr eq_comm rfl rfl), htrace⟩

end Sys2Proof.Machine
end

section
/-! PROOF. A PUTC that draws (R101, R103, R105 to R107). The write list of a glyph fills a window of the panel column
by column; clipping cuts the window down, no byte of it is written twice, and each mode's writes are read off from
that. -/

namespace Sys2Proof.Machine

/-! ### Write lists that fill a window -/

/-- The bytes `vs` down one pixel column, from page `p` on. -/
def columnWrites (x p : Nat) : List Byte → List ByteWrite
  | [] => []
  | v :: vs => ⟨x, p, v⟩ :: columnWrites x (p + 1) vs

/-- The columns `cols` side by side, from pixel column `x` on: the page-fastest order of R113. -/
def windowWrites (x p : Nat) : List (List Byte) → List ByteWrite
  | [] => []
  | col :: cols => columnWrites x p col ++ windowWrites (x + 1) p cols

@[simp] theorem columnWrites_nil (x p : Nat) : columnWrites x p [] = [] := rfl

@[simp] theorem columnWrites_cons (x p : Nat) (v : Byte) (vs : List Byte) :
    columnWrites x p (v :: vs) = ⟨x, p, v⟩ :: columnWrites x (p + 1) vs := rfl

@[simp] theorem windowWrites_nil (x p : Nat) : windowWrites x p [] = [] := rfl

@[simp] theorem windowWrites_cons (x p : Nat) (col : List Byte) (cols : List (List Byte)) :
    windowWrites x p (col :: cols) = columnWrites x p col ++ windowWrites (x + 1) p cols := rfl

@[simp] theorem columnWrites_values (x p : Nat) (vs : List Byte) : (columnWrites x p vs).map (·.v) = vs := by
  induction vs generalizing p with
  | nil => rfl
  | cons v vs ih => simp [ih]

theorem columnWrites_eq_map_zipIdx (x p k : Nat) (vs : List Byte) :
    columnWrites x (p + k) vs = (vs.zipIdx k).map fun d => ⟨x, p + d.2, d.1⟩ := by
  induction vs generalizing k with
  | nil => rfl
  | cons v vs ih => simp [← ih, Nat.add_assoc]

/-- A window of columns of height `r` holds nothing only if it has no columns or no height. -/
theorem windowWrites_eq_nil_iff {x p r : Nat} {cols : List (List Byte)} (hlen : ∀ col ∈ cols, col.length = r) :
    windowWrites x p cols = [] ↔ cols = [] ∨ r = 0 := by
  induction cols generalizing x with
  | nil => simp
  | cons col cols ih =>
    obtain ⟨hcol, hcols⟩ := List.forall_mem_cons.1 hlen
    have hnil : columnWrites x p col = [] ↔ r = 0 := by
      subst hcol; cases col <;> simp
    simp only [windowWrites_cons, List.append_eq_nil_iff, hnil, ih hcols, reduceCtorEq, false_or]
    exact ⟨And.left, fun h => ⟨h, .inr h⟩⟩

/-! ### Where a window's last byte is -/

theorem getLast?_columnWrites {x p : Nat} {vs : List Byte} {w : ByteWrite}
    (h : (columnWrites x p vs).getLast? = some w) : w.x = x ∧ w.p + 1 = p + vs.length := by
  induction vs generalizing p with
  | nil => cases h
  | cons v vs ih =>
    cases vs with
    | nil =>
      obtain rfl : ⟨x, p, v⟩ = w := Option.some.inj h
      exact ⟨rfl, rfl⟩
    | cons v' vs =>
      obtain ⟨hx, hp⟩ := ih (p := p + 1) h
      refine ⟨hx, ?_⟩
      simp only [List.length_cons] at hp ⊢
      omega

/-- The far corner of a window. -/
theorem getLast?_windowWrites {x p r : Nat} {cols : List (List Byte)} {w : ByteWrite}
    (hlen : ∀ col ∈ cols, col.length = r) (h : (windowWrites x p cols).getLast? = some w) :
    w.x + 1 = x + cols.length ∧ w.p + 1 = p + r := by
  induction cols generalizing x with
  | nil => cases h
  | cons col cols ih =>
    obtain ⟨hcol, hcols⟩ := List.forall_mem_cons.1 hlen
    rw [windowWrites_cons, List.getLast?_append, Option.or_eq_some_iff] at h
    simp only [List.length_cons]
    obtain h | ⟨hnone, h⟩ := h
    · obtain ⟨hx, hp⟩ := ih hcols h
      omega
    · obtain ⟨hx, hp⟩ := getLast?_columnWrites h
      obtain rfl | hr := (windowWrites_eq_nil_iff hcols).1 (List.getLast?_eq_none_iff.1 hnone)
      · simp only [List.length_nil]
        omega
      · obtain rfl : col = [] := List.length_eq_zero_iff.1 (hcol.trans hr)
        cases h

/-! ### Clipping a window -/

theorem mem_clipWrites {n : Nat} {ws : List ByteWrite} {w : ByteWrite} :
    w ∈ clipWrites n ws ↔ w ∈ ws ∧ w.x < panelWidth ∧ w.p < n := by
  simp [clipWrites, ByteWrite.inBounds]

theorem clipWrites_columnWrites (n : Nat) {x : Nat} (p : Nat) (vs : List Byte) (hx : x < panelWidth) :
    clipWrites n (columnWrites x p vs) = columnWrites x p (vs.take (n - p)) := by
  induction vs generalizing p with
  | nil => simp [clipWrites]
  | cons v vs ih =>
    have htail : clipWrites n (columnWrites x (p + 1) vs) = columnWrites x (p + 1) (vs.take (n - (p + 1))) := ih (p + 1)
    unfold clipWrites at htail ⊢
    obtain hp | hp := Nat.lt_or_ge p n
    · have htake : n - p = n - (p + 1) + 1 := by omega
      simp [ByteWrite.inBounds, hx, hp, htail, htake]
    · have hnone : n - p = 0 ∧ n - (p + 1) = 0 := by omega
      simp [ByteWrite.inBounds, hp.not_gt, htail, hnone]

theorem coords_of_mem_columnWrites {x p : Nat} {vs : List Byte} {w : ByteWrite} (h : w ∈ columnWrites x p vs) :
    w.x = x ∧ p ≤ w.p := by
  rw [← Nat.add_zero p, columnWrites_eq_map_zipIdx] at h
  obtain ⟨d, -, rfl⟩ := List.mem_map.1 h
  exact ⟨rfl, Nat.le_add_right _ _⟩

theorem le_x_of_mem_windowWrites {x p : Nat} {cols : List (List Byte)} {w : ByteWrite}
    (h : w ∈ windowWrites x p cols) : x ≤ w.x := by
  induction cols generalizing x with
  | nil => cases h
  | cons col cols ih =>
    obtain h | h := List.mem_append.1 h
    · exact (coords_of_mem_columnWrites h).1.ge
    · exact (Nat.le_succ x).trans (ih h)

/-- Clipping cuts a window to the columns and the pages that are on the panel (R113). -/
theorem clipWrites_windowWrites (n x p : Nat) (cols : List (List Byte)) :
    clipWrites n (windowWrites x p cols) =
      windowWrites x p ((cols.take (panelWidth - x)).map (·.take (n - p))) := by
  induction cols generalizing x with
  | nil => simp [clipWrites]
  | cons col cols ih =>
    obtain hx | hx := Nat.lt_or_ge x panelWidth
    · have htake : panelWidth - x = panelWidth - (x + 1) + 1 := by omega
      rw [htake, List.take_succ_cons, List.map_cons, windowWrites_cons, windowWrites_cons, ← ih,
        ← clipWrites_columnWrites n p col hx]
      exact List.filter_append ..
    · have hnone : panelWidth - x = 0 := by omega
      rw [hnone, List.take_zero, List.map_nil, windowWrites_nil, List.eq_nil_iff_forall_not_mem]
      intro w hw
      obtain ⟨hmem, hlt, -⟩ := mem_clipWrites.1 hw
      have := le_x_of_mem_windowWrites hmem
      omega

/-! ### No byte of a window is written twice -/

/-- The order of a window's writes: by column, and down each column. -/
def ByteWrite.before (w w' : ByteWrite) : Prop := w.x < w'.x ∨ w.x = w'.x ∧ w.p < w'.p

/-- No two writes of the list go to the same byte of the store. -/
def distinctBytes (n : Nat) (ws : List ByteWrite) : Prop :=
  ws.Pairwise fun w w' => fbIndex n w.x w.p ≠ fbIndex n w'.x w'.p

theorem columnWrites_pairwise_before (x p : Nat) (vs : List Byte) :
    (columnWrites x p vs).Pairwise ByteWrite.before := by
  induction vs generalizing p with
  | nil => exact .nil
  | cons v vs ih =>
    refine List.pairwise_cons.2 ⟨fun w hw => ?_, ih (p + 1)⟩
    obtain ⟨hx, hp⟩ := coords_of_mem_columnWrites hw
    exact .inr ⟨hx.symm, hp⟩

theorem windowWrites_pairwise_before (x p : Nat) (cols : List (List Byte)) :
    (windowWrites x p cols).Pairwise ByteWrite.before := by
  induction cols generalizing x with
  | nil => exact .nil
  | cons col cols ih =>
    refine List.pairwise_append.2 ⟨columnWrites_pairwise_before x p col, ih (x + 1), fun w hw w' hw' => ?_⟩
    obtain ⟨hx, -⟩ := coords_of_mem_columnWrites hw
    have := le_x_of_mem_windowWrites hw'
    exact .inl (by omega)

theorem distinctBytes_clipWrites_windowWrites (n x p : Nat) (cols : List (List Byte)) :
    distinctBytes n (clipWrites n (windowWrites x p cols)) := by
  refine ((windowWrites_pairwise_before x p cols).filter _).imp_of_mem fun {w w'} hw hw' hbefore heq => ?_
  obtain ⟨-, -, hp⟩ := mem_clipWrites.1 hw
  obtain ⟨-, -, hp'⟩ := mem_clipWrites.1 hw'
  obtain ⟨hx, hp⟩ := fbIndex_inj hp hp' heq
  unfold ByteWrite.before at hbefore
  omega

/-! ### Direct mode: a window goes as one transaction -/

/-- The cell of the store that a byte write names. -/
def ByteWrite.cell (n : Nat) (w : ByteWrite) : Host.Cell := (fbIndex n w.x w.p, w.v)

theorem windowCells_column (n x : Nat) {pa pb : Nat} {col : List Byte} (hlen : col.length = pb - pa + 1) :
    windowCells n x pa pb col = (columnWrites x pa col).map (ByteWrite.cell n) := by
  rw [← Nat.add_zero pa, columnWrites_eq_map_zipIdx, List.map_map, Nat.add_zero]
  refine List.map_congr_left fun d hd => ?_
  have hrow : d.2 < pb - pa + 1 := hlen ▸ List.snd_lt_of_mem_zipIdx hd
  rw [Nat.div_eq_of_lt hrow, Nat.mod_eq_of_lt hrow]
  rfl

/-- After one full column the transaction goes on in the next one (R36). -/
theorem windowCells_append (n x : Nat) {pa pb : Nat} {col : List Byte} (rest : List Byte)
    (hlen : col.length = pb - pa + 1) :
    windowCells n x pa pb (col ++ rest) = windowCells n x pa pb col ++ windowCells n (x + 1) pa pb rest := by
  unfold windowCells
  rw [List.zipIdx_append, List.map_append, Nat.zero_add, List.zipIdx_eq_map_add (i := col.length), List.map_map, hlen]
  congr 1
  refine List.map_congr_left fun d _ => ?_
  simp only [Function.comp_apply, Nat.add_mod_left, Nat.add_div_left _ (Nat.succ_pos _), Nat.succ_eq_add_one]
  rw [Nat.add_comm (d.2 / _) 1, Nat.add_assoc]

/-- The data bytes of a window land where its writes say (R36, R101). -/
theorem windowCells_windowWrites (n x : Nat) {pa pb : Nat} {cols : List (List Byte)}
    (hlen : ∀ col ∈ cols, col.length = pb - pa + 1) :
    windowCells n x pa pb ((windowWrites x pa cols).map (·.v)) =
      (windowWrites x pa cols).map (ByteWrite.cell n) := by
  induction cols generalizing x with
  | nil => rfl
  | cons col cols ih =>
    obtain ⟨hcol, hcols⟩ := List.forall_mem_cons.1 hlen
    rw [windowWrites_cons, List.map_append, List.map_append, columnWrites_values, windowCells_append n x _ hcol,
      windowCells_column n x hcol, ih (x + 1) hcols]

/-- A list that is not empty goes as one transaction from its first byte to its last (R101). -/
theorem directWrite_cons (s : State) {w last : ByteWrite} {ws : List ByteWrite}
    (hlast : (w :: ws).getLast? = some last) :
    directWrite s (w :: ws) = panelTx s w.x last.x w.p last.p ((w :: ws).map (·.v)) := by
  obtain rfl : ws.getLastD w = last := by simpa [List.getLast?_cons, List.getLastD_eq_getLast?] using hlast
  rfl

/-- A window that is not empty goes as one transaction between its corners (R101). -/
theorem directWrite_windowWrites (s : State) (x p : Nat) {r : Nat} {cols : List (List Byte)}
    (hlen : ∀ col ∈ cols, col.length = r) (hcols : cols ≠ []) (hr : r ≠ 0) :
    directWrite s (windowWrites x p cols) =
      panelTx s x (x + cols.length - 1) p (p + r - 1) ((windowWrites x p cols).map (·.v)) := by
  obtain ⟨col, cols, rfl⟩ := List.exists_cons_of_ne_nil hcols
  obtain ⟨v, vs, rfl⟩ := List.exists_cons_of_ne_nil
    (List.ne_nil_of_length_pos (Nat.pos_of_ne_zero ((hlen col List.mem_cons_self).trans_ne hr)))
  obtain ⟨last, hlast⟩ : ∃ last, (windowWrites x p ((v :: vs) :: cols)).getLast? = some last :=
    ⟨_, List.getLast?_cons⟩
  obtain ⟨hx, hp⟩ := getLast?_windowWrites hlen hlast
  rw [← hx, ← hp]
  exact directWrite_cons s hlast

theorem directWrite_windowWrites_pm (s : State) (x p : Nat) {r : Nat} {cols : List (List Byte)}
    (hlen : ∀ col ∈ cols, col.length = r) :
    (directWrite s (windowWrites x p cols)).pm =
      s.pm.writeAll ((windowWrites x p cols).map (ByteWrite.cell (pages s))) := by
  by_cases hnil : windowWrites x p cols = []
  · rw [hnil]; rfl
  · obtain ⟨hcols, hr⟩ := not_or.1 (mt (windowWrites_eq_nil_iff hlen).2 hnil)
    have hheight : ∀ col ∈ cols, col.length = p + r - 1 - p + 1 := fun col hcol => by
      rw [hlen col hcol]; omega
    rw [directWrite_windowWrites s x p hlen hcols hr, panelTx_pm, windowCells_windowWrites _ _ hheight]

/-! ### The other modes: byte by byte -/

/-- With the configuration `c`, `f` ORs the byte of a write into the store that `rd` reads, and issues the bus events
`ev` of the old byte and the write. -/
structure MergesByte (c : Config) (f : State → ByteWrite → State) (rd : State → Nat → Byte)
    (ev : Byte → ByteWrite → List BusEvent) : Prop where
  keeps_cfg : ∀ s w, (f s w).cfg = s.cfg
  read : ∀ s w, s.cfg = c → ∀ a, rd (f s w) a = if fbIndex (pages s) w.x w.p = a then rd s a ||| w.v else rd s a
  trace : ∀ s w, s.cfg = c → (f s w).trace = s.trace ++ ev (rd s (fbIndex (pages s) w.x w.p)) w

section
variable {c : Config} {f : State → ByteWrite → State} {rd : State → Nat → Byte}
  {ev : Byte → ByteWrite → List BusEvent}

theorem MergesByte.pages_eq (hf : MergesByte c f rd ev) (s : State) (w : ByteWrite) : pages (f s w) = pages s := by
  rw [pages, hf.keeps_cfg, pages]

theorem MergesByte.foldl_read_other (hf : MergesByte c f rd ev) {s : State} (hs : s.cfg = c) {ws : List ByteWrite}
    {a : Nat} (ha : ∀ w ∈ ws, fbIndex (pages s) w.x w.p ≠ a) : rd (ws.foldl f s) a = rd s a := by
  induction ws generalizing s with
  | nil => rfl
  | cons w ws ih =>
    obtain ⟨hw, hws⟩ := List.forall_mem_cons.1 ha
    rw [List.foldl_cons, ih ((hf.keeps_cfg s w).trans hs) ((hf.pages_eq s w).symm ▸ hws), hf.read s w hs, if_neg hw]

theorem MergesByte.foldl_read_mem (hf : MergesByte c f rd ev) {s : State} (hs : s.cfg = c) {ws : List ByteWrite}
    (hws : distinctBytes (pages s) ws) {w : ByteWrite} (hw : w ∈ ws) :
    rd (ws.foldl f s) (fbIndex (pages s) w.x w.p) = rd s (fbIndex (pages s) w.x w.p) ||| w.v := by
  induction ws generalizing s with
  | nil => cases hw
  | cons u ws ih =>
    obtain ⟨hu, hws⟩ := List.pairwise_cons.1 hws
    have hpages := hf.pages_eq s u
    have hcfg := (hf.keeps_cfg s u).trans hs
    rw [List.foldl_cons]
    obtain rfl | hw := List.mem_cons.1 hw
    · have hlater : ∀ v ∈ ws, fbIndex (pages (f s w)) v.x v.p ≠ fbIndex (pages s) w.x w.p :=
        fun v hv => hpages.symm ▸ (hu v hv).symm
      rw [hf.foldl_read_other hcfg hlater, hf.read s w hs, if_pos rfl]
    · have htail := ih hcfg (hpages.symm ▸ hws) hw
      rwa [hpages, hf.read s u hs, if_neg (hu w hw)] at htail

/-- As no byte is written twice, every event carries the byte that stood there before the run. -/
theorem MergesByte.foldl_trace (hf : MergesByte c f rd ev) {s : State} (hs : s.cfg = c) {ws : List ByteWrite}
    (hws : distinctBytes (pages s) ws) :
    (ws.foldl f s).trace = s.trace ++ ws.flatMap fun w => ev (rd s (fbIndex (pages s) w.x w.p)) w := by
  induction ws generalizing s with
  | nil => simp
  | cons u ws ih =>
    obtain ⟨hu, hws⟩ := List.pairwise_cons.1 hws
    have hpages := hf.pages_eq s u
    have hold : ∀ w ∈ ws, ev (rd (f s u) (fbIndex (pages s) w.x w.p)) w = ev (rd s (fbIndex (pages s) w.x w.p)) w :=
      fun w hw => by rw [hf.read s u hs, if_neg (hu w hw)]
    rw [List.foldl_cons, ih ((hf.keeps_cfg s u).trans hs) (hpages.symm ▸ hws), hpages, hf.trace s u hs,
      List.flatMap_congr hold, List.flatMap_cons, List.append_assoc]

end

/-- HardwareBuffer mode merges into panel memory (R103). -/
theorem readbackWrite_mergesByte (c : Config) :
    MergesByte c readbackWrite pmByte fun old w => [.rd w.x w.p old, .tx w.x w.x w.p w.p [old ||| w.v]] where
  keeps_cfg _ _ := rfl
  read s w _ := (readbackWrite_spec s w).1
  trace s w _ :=
    let ⟨_, _, htrace⟩ := readbackWrite_spec s w
    htrace

theorem shadowWrite_keeps_cfg (s : State) (w : ByteWrite) : (shadowWrite s w).cfg = s.cfg :=
  pixelOnly_cfg (pixelOnly_shadowWrite s w)

/-- SoftwareBuffer mode with AUTO_SEND = 1 merges into the shadow buffer and pushes the merged byte (R105, R106). -/
theorem shadowWrite_mergesByte_autoSend {c : Config} (hc : c.autoSend = true) :
    MergesByte c shadowWrite sbByte fun old w => [.tx w.x w.x w.p w.p [old ||| w.v]] where
  keeps_cfg := shadowWrite_keeps_cfg
  read s w _ := (shadowWrite_spec s w).1
  trace s w hs :=
    let ⟨_, hpush, _⟩ := shadowWrite_spec s w
    (hpush (hs ▸ hc)).2

/-- SoftwareBuffer mode with AUTO_SEND = 0 merges into the shadow buffer in silence (R105, R107). -/
theorem shadowWrite_mergesByte_deferred {c : Config} (hc : c.autoSend = false) :
    MergesByte c shadowWrite sbByte fun _ _ => [] where
  keeps_cfg := shadowWrite_keeps_cfg
  read s w _ := (shadowWrite_spec s w).1
  trace s w hs :=
    let ⟨_, _, hdefer⟩ := shadowWrite_spec s w
    (hdefer (hs ▸ hc)).2.trans (List.append_nil _).symm

theorem foldl_readbackWrite_sb (s : State) (ws : List ByteWrite) : (ws.foldl readbackWrite s).sb = s.sb := by
  induction ws generalizing s with
  | nil => rfl
  | cons w ws ih =>
    obtain ⟨-, hsb, -⟩ := readbackWrite_spec s w
    rw [List.foldl_cons, ih, hsb]

theorem foldl_shadowWrite_pm_deferred {s : State} (hs : s.cfg.autoSend = false) (ws : List ByteWrite) :
    (ws.foldl shadowWrite s).pm = s.pm := by
  induction ws generalizing s with
  | nil => rfl
  | cons w ws ih =>
    obtain ⟨-, -, hdefer⟩ := shadowWrite_spec s w
    rw [List.foldl_cons, ih ((shadowWrite_keeps_cfg s w).symm ▸ hs), (hdefer hs).1]

/-- With AUTO_SEND = 1 the panel shows the shadow byte at every byte written, and what it showed elsewhere (R106). -/
theorem pmByte_foldl_shadowWrite_autoSend {s : State} (hs : s.cfg.autoSend = true) (ws : List ByteWrite) (a : Nat) :
    pmByte (ws.foldl shadowWrite s) a =
      if ∃ w ∈ ws, fbIndex (pages s) w.x w.p = a then sbByte (ws.foldl shadowWrite s) a else pmByte s a := by
  have hf := shadowWrite_mergesByte_autoSend hs
  induction ws using List.reverseRecOn with
  | nil => simp
  | append_singleton ws w ih =>
    have hcfg := pixelOnly_cfg (pixelOnly_foldl _ pixelOnly_shadowWrite ws s)
    have hpages : pages (ws.foldl shadowWrite s) = pages s := by rw [pages, hcfg, pages]
    obtain ⟨hsb, hpush, -⟩ := shadowWrite_spec (ws.foldl shadowWrite s) w
    obtain ⟨hpm, -⟩ := hpush (hcfg ▸ hs)
    rw [List.foldl_append, List.foldl_cons, List.foldl_nil, hpm, hsb, ih, hpages]
    by_cases hw : fbIndex (pages s) w.x w.p = a <;> simp [hw, or_and_right, exists_or]

/-! ### The window of a glyph -/

/-- The two bytes of a stretched mask, on the cursor's page and on the next one (R92). -/
def stretchedBytes (m : Byte) : List Byte := [lowPage (stretch m), highPage (stretch m)]

@[simp] theorem length_stretchedBytes (m : Byte) : (stretchedBytes m).length = 2 := rfl

theorem stretchedColumn_eq_columnWrites (x p k : Nat) (m : Byte) :
    stretchedColumn x p k m =
      columnWrites (x + 2 * k) p (stretchedBytes m) ++ columnWrites (x + 2 * k + 1) p (stretchedBytes m) := rfl

/-- The columns of a glyph's bytes: a mask each at scale 1 (R134), each stretched mask twice at scale 2 (R135). -/
def glyphColumns (s : State) (g : Nat) : List (List Byte) :=
  match s.scale with
  | .one => (glyphMasks s g).map fun m => [m]
  | .two => (glyphMasks s g).flatMap fun m => [stretchedBytes m, stretchedBytes m]

theorem cellWrites1_eq_windowWrites (x p : Nat) (masks : List Byte) :
    cellWrites1 x p masks = windowWrites x p (masks.map fun m => [m]) := by
  suffices h : ∀ k, ((masks.zipIdx k).map fun m => (⟨x + m.2, p, m.1⟩ : ByteWrite)) =
      windowWrites (x + k) p (masks.map fun m => [m]) from h 0
  induction masks with
  | nil => exact fun _ => rfl
  | cons m masks ih => intro k; simp [ih, Nat.add_assoc]

theorem cellWrites2_eq_windowWrites (x p : Nat) (masks : List Byte) :
    cellWrites2 x p masks =
      windowWrites x p (masks.flatMap fun m => [stretchedBytes m, stretchedBytes m]) := by
  suffices h : ∀ k, ((masks.zipIdx k).flatMap fun m => stretchedColumn x p m.2 m.1) =
      windowWrites (x + 2 * k) p (masks.flatMap fun m => [stretchedBytes m, stretchedBytes m]) from h 0
  induction masks with
  | nil => exact fun _ => rfl
  | cons m masks ih =>
    intro k
    rw [List.zipIdx_cons, List.flatMap_cons, List.flatMap_cons, ih, stretchedColumn_eq_columnWrites]
    simp [Nat.mul_add, Nat.add_assoc]

/-- The write list of a glyph fills a window from the cursor cell's origin on (R134, R135). -/
theorem glyphWrites_eq_windowWrites (s : State) (g : Nat) :
    glyphWrites s g = windowWrites (cellX s) (cellPage s) (glyphColumns s g) := by
  unfold glyphWrites glyphColumns
  cases s.scale with
  | one => exact cellWrites1_eq_windowWrites _ _ _
  | two => exact cellWrites2_eq_windowWrites _ _ _

theorem length_glyphColumns (s : State) (g : Nat) : (glyphColumns s g).length = 6 * s.scale.toNat := by
  unfold glyphColumns
  cases s.scale <;> rfl

theorem length_of_mem_glyphColumns (s : State) (g : Nat) :
    ∀ col ∈ glyphColumns s g, col.length = s.scale.toNat := by
  unfold glyphColumns
  cases s.scale with
  | one => simp [Scale.toNat]
  | two =>
    intro col hcol
    obtain ⟨m, -, hcol⟩ := List.mem_flatMap.1 hcol
    obtain rfl : col = stretchedBytes m := by simpa using hcol
    exact length_stretchedBytes m

/-- The clipped write list of a glyph is a window too (R113). -/
theorem clipWrites_glyphWrites (s : State) (g n : Nat) :
    clipWrites n (glyphWrites s g) = windowWrites (cellX s) (cellPage s)
      (((glyphColumns s g).take (panelWidth - cellX s)).map (·.take (n - cellPage s))) := by
  rw [glyphWrites_eq_windowWrites, clipWrites_windowWrites]

/-- Every column of the clipped window has the same height. -/
theorem length_of_mem_clippedColumns (s : State) (g n : Nat) :
    ∀ col ∈ ((glyphColumns s g).take (panelWidth - cellX s)).map (·.take (n - cellPage s)),
      col.length = min (n - cellPage s) s.scale.toNat := by
  intro col hcol
  obtain ⟨c, hc, rfl⟩ := List.mem_map.1 hcol
  rw [List.length_take, length_of_mem_glyphColumns s g c (List.mem_of_mem_take hc)]

theorem distinctBytes_clipWrites_glyphWrites (s : State) (g n : Nat) :
    distinctBytes n (clipWrites n (glyphWrites s g)) := by
  rw [glyphWrites_eq_windowWrites]
  exact distinctBytes_clipWrites_windowWrites _ _ _ _

/-! ### Render, mode by mode -/

theorem directWrite_sb (s : State) (ws : List ByteWrite) : (directWrite s ws).sb = s.sb := by
  cases ws <;> rfl

section
variable (s : State) (g : Nat)

theorem render_resets : (render s g).resets = s.resets := pixelOnly_resets (pixelOnly_render s g)

theorem render_direct_pm (hmode : s.cfg.mode = .direct) :
    (render s g).pm =
      s.pm.writeAll ((clipWrites (pages s) (glyphWrites s g)).map (ByteWrite.cell (pages s))) := by
  rw [render, writeBytes_of_direct hmode, clipWrites_glyphWrites]
  exact directWrite_windowWrites_pm s _ _ (length_of_mem_clippedColumns s g _)

/-- Direct mode overwrites the bytes of the list (R101). -/
theorem pmByte_render_direct_mem (hmode : s.cfg.mode = .direct) {w : ByteWrite}
    (hw : w ∈ clipWrites (pages s) (glyphWrites s g)) :
    pmByte (render s g) (fbIndex (pages s) w.x w.p) = w.v := by
  have hnodup : (((clipWrites (pages s) (glyphWrites s g)).map (ByteWrite.cell (pages s))).map Prod.fst).Nodup := by
    rw [List.map_map]
    exact List.pairwise_map.2 (distinctBytes_clipWrites_glyphWrites s g _)
  have hread := Memory.read?_writeAll_mem s.pm hnodup (List.mem_map_of_mem hw)
  rw [← render_direct_pm s g hmode] at hread
  exact (congrArg (Option.getD · _) hread).trans rfl

/-- With the cursor on the grid no column is clipped, and the page of the cursor is on the panel, so the window
transmitted has the corners of R101. -/
theorem render_direct_trace (hmode : s.cfg.mode = .direct) (hcolumn : s.column.toNat ≤ 19)
    (hrow : s.row.toNat < pages s) :
    (render s g).trace = s.trace ++
      [.tx (6 * s.column.toNat) (6 * s.column.toNat + 6 * s.scale.toNat - 1) s.row.toNat
        (min (s.row.toNat + s.scale.toNat - 1) (pages s - 1))
        ((clipWrites (pages s) (glyphWrites s g)).map (·.v))] := by
  have hscale : 1 ≤ s.scale.toNat ∧ s.scale.toNat ≤ 2 := by cases s.scale <;> decide
  have hx : cellX s = 6 * s.column.toNat := Nat.mul_comm _ _
  have hwidth : ((glyphColumns s g).take (panelWidth - cellX s)).length = 6 * s.scale.toNat := by
    rw [List.length_take, length_glyphColumns, hx, panelWidth]
    omega
  have hheight : pages s - cellPage s = pages s - s.row.toNat := rfl
  rw [render, writeBytes_of_direct hmode, clipWrites_glyphWrites,
    directWrite_windowWrites s _ _ (length_of_mem_clippedColumns s g _), panelTx_trace, List.length_map, hwidth, hx,
    hheight, cellPage]
  · congr 3
    omega
  · exact List.ne_nil_of_length_pos (by rw [List.length_map, hwidth]; omega)
  · rw [hheight]
    omega

theorem render_direct_sb (hmode : s.cfg.mode = .direct) : (render s g).sb = s.sb := by
  rw [render, writeBytes_of_direct hmode, directWrite_sb]

theorem render_hardwareBuffer_sb (hmode : s.cfg.mode = .hardwareBuffer) : (render s g).sb = s.sb := by
  rw [render, writeBytes_of_hardwareBuffer hmode, foldl_readbackWrite_sb]

/-- Bytes outside the clipped write list read as before, in every mode (R100, R107, R112). -/
theorem render_other {a : Nat}
    (ha : ∀ w ∈ clipWrites (pages s) (glyphWrites s g), fbIndex (pages s) w.x w.p ≠ a) :
    pmByte (render s g) a = pmByte s a ∧ sbByte (render s g) a = sbByte s a := by
  cases hmode : s.cfg.mode with
  | direct =>
    have hcells : ∀ c ∈ (clipWrites (pages s) (glyphWrites s g)).map (ByteWrite.cell (pages s)), c.1 ≠ a :=
      List.forall_mem_map.2 ha
    rw [pmByte, sbByte, render_direct_pm s g hmode, render_direct_sb s g hmode, render_resets,
      Memory.read?_writeAll_other _ _ _ hcells]
    exact ⟨rfl, rfl⟩
  | hardwareBuffer =>
    rw [sbByte, render_hardwareBuffer_sb s g hmode, render_resets, render, writeBytes_of_hardwareBuffer hmode]
    exact ⟨(readbackWrite_mergesByte s.cfg).foldl_read_other rfl ha, rfl⟩
  | softwareBuffer =>
    rw [render, writeBytes_of_softwareBuffer hmode]
    cases hsend : s.cfg.autoSend with
    | false =>
      have hresets := pixelOnly_resets
        (pixelOnly_foldl _ pixelOnly_shadowWrite (clipWrites (pages s) (glyphWrites s g)) s)
      have hpm := foldl_shadowWrite_pm_deferred hsend (clipWrites (pages s) (glyphWrites s g))
      exact ⟨by rw [pmByte, hpm, hresets]; rfl, (shadowWrite_mergesByte_deferred hsend).foldl_read_other rfl ha⟩
    | true =>
      have hnone : ¬∃ w ∈ clipWrites (pages s) (glyphWrites s g), fbIndex (pages s) w.x w.p = a :=
        fun ⟨w, hw, heq⟩ => ha w hw heq
      exact ⟨by rw [pmByte_foldl_shadowWrite_autoSend hsend, if_neg hnone],
        (shadowWrite_mergesByte_autoSend hsend).foldl_read_other rfl ha⟩

/-- HardwareBuffer mode reads each byte of the list and writes it back merged (R103). -/
theorem render_hardwareBuffer (hmode : s.cfg.mode = .hardwareBuffer) :
    (∀ w ∈ clipWrites (pages s) (glyphWrites s g),
      pmByte (render s g) (fbIndex (pages s) w.x w.p) = pmByte s (fbIndex (pages s) w.x w.p) ||| w.v) ∧
    (render s g).trace = s.trace ++ (clipWrites (pages s) (glyphWrites s g)).flatMap fun w =>
      [.rd w.x w.p (pmByte s (fbIndex (pages s) w.x w.p)),
       .tx w.x w.x w.p w.p [pmByte s (fbIndex (pages s) w.x w.p) ||| w.v]] := by
  have hmerge := readbackWrite_mergesByte s.cfg
  have hdistinct := distinctBytes_clipWrites_glyphWrites s g (pages s)
  rw [render, writeBytes_of_hardwareBuffer hmode]
  exact ⟨fun w hw => hmerge.foldl_read_mem rfl hdistinct hw, hmerge.foldl_trace rfl hdistinct⟩

/-- SoftwareBuffer mode with AUTO_SEND = 1 merges into both stores and pushes each merged byte (R105, R106). -/
theorem render_softwareBuffer_autoSend (hmode : s.cfg.mode = .softwareBuffer) (hsend : s.cfg.autoSend = true) :
    (∀ w ∈ clipWrites (pages s) (glyphWrites s g),
      sbByte (render s g) (fbIndex (pages s) w.x w.p) = sbByte s (fbIndex (pages s) w.x w.p) ||| w.v ∧
      pmByte (render s g) (fbIndex (pages s) w.x w.p) = sbByte s (fbIndex (pages s) w.x w.p) ||| w.v) ∧
    (render s g).trace = s.trace ++ (clipWrites (pages s) (glyphWrites s g)).map fun w =>
      .tx w.x w.x w.p w.p [sbByte s (fbIndex (pages s) w.x w.p) ||| w.v] := by
  have hmerge := shadowWrite_mergesByte_autoSend hsend
  have hdistinct := distinctBytes_clipWrites_glyphWrites s g (pages s)
  rw [render, writeBytes_of_softwareBuffer hmode]
  refine ⟨fun w hw => ?_, by rw [List.map_eq_flatMap]; exact hmerge.foldl_trace rfl hdistinct⟩
  have hsb := hmerge.foldl_read_mem rfl hdistinct hw
  exact ⟨hsb, by rw [pmByte_foldl_shadowWrite_autoSend hsend, if_pos ⟨w, hw, rfl⟩, hsb]⟩

/-- SoftwareBuffer mode with AUTO_SEND = 0 merges into the shadow buffer alone (R105, R107). -/
theorem render_softwareBuffer_deferred (hmode : s.cfg.mode = .softwareBuffer) (hsend : s.cfg.autoSend = false) :
    (∀ w ∈ clipWrites (pages s) (glyphWrites s g),
      sbByte (render s g) (fbIndex (pages s) w.x w.p) = sbByte s (fbIndex (pages s) w.x w.p) ||| w.v) ∧
    (render s g).pm = s.pm ∧ (render s g).trace = s.trace := by
  have hmerge := shadowWrite_mergesByte_deferred hsend
  have hdistinct := distinctBytes_clipWrites_glyphWrites s g (pages s)
  rw [render, writeBytes_of_softwareBuffer hmode]
  refine ⟨fun w hw => hmerge.foldl_read_mem rfl hdistinct hw, foldl_shadowWrite_pm_deferred hsend _, ?_⟩
  rw [hmerge.foldl_trace rfl hdistinct, List.flatMap_eq_nil_iff.2 fun _ _ => rfl, List.append_nil]

end

/-! ### PUTC -/

theorem cursorOnly_stores {s t : State} (h : cursorOnly s t) :
    t.sb = s.sb ∧ t.pm = s.pm ∧ t.trace = s.trace ∧ pmByte t = pmByte s ∧ sbByte t = sbByte s := by
  rw [h]; exact ⟨rfl, rfl, rfl, rfl, rfl⟩

/-- What a PUTC records before it draws: the raw byte, and OOR for a byte without an index (R80, R153). The renderer
reads neither. -/
def putcRecorded (s : State) (b : Byte) (oor : Bool) : State := { s with lastByte := b, oor := oor }

/-- A PUTC that draws renders its glyph, glyph 0 for a byte without an index, and advances the cursor (R153). -/
theorem exec_putc_of_drawn {s : State} {b : Byte} {g : Nat} (hwf : s.cfg.wf = true)
    (hdrawn : resolve s.cfg.substAsCode b s.lastByte = .glyph g ∨
      (resolve s.cfg.substAsCode b s.lastByte = .outOfRange ∧ g = 0)) :
    ∃ oor, exec (.putc b) s = .next (advance (render (putcRecorded s b oor) g)) := by
  rw [exec_putc_of_wf hwf]
  obtain hres | ⟨hres, rfl⟩ := hdrawn
  · exact ⟨s.oor, by rw [hres]; rfl⟩
  · exact ⟨true, by rw [hres]; rfl⟩

/-- Settles O44: the cursor's advance leaves the stores and the trace alone, so the render says everything. -/
theorem putcMergesTheGlyph : Obligations.PutcMergesTheGlyph := by
  rintro s b g ws hwf hdrawn rfl
  obtain ⟨oor, hexec⟩ := exec_putc_of_drawn hwf hdrawn
  let r := putcRecorded s b oor
  obtain ⟨hsb, hpm, htrace, hpmByte, hsbByte⟩ := cursorOnly_stores (cursorOnly_advance (render r g))
  refine ⟨advance (render r g), hexec, ?_⟩
  rw [hsb, hpm, htrace, hpmByte, hsbByte]
  refine ⟨fun a ha => render_other r g ha, fun hmode => ?_, fun hmode => ?_, fun hmode => ?_⟩
  · exact ⟨render_direct_sb r g hmode, fun w hw => pmByte_render_direct_mem r g hmode hw,
      render_direct_trace r g hmode⟩
  · exact ⟨render_hardwareBuffer_sb r g hmode, render_hardwareBuffer r g hmode⟩
  · cases hsend : s.cfg.autoSend with
    | true =>
      obtain ⟨hbytes, hevents⟩ := render_softwareBuffer_autoSend r g hmode hsend
      exact ⟨fun w hw => (hbytes w hw).1, fun _ => ⟨fun w hw => (hbytes w hw).2, hevents⟩, nofun⟩
    | false =>
      obtain ⟨hbytes, hquiet⟩ := render_softwareBuffer_deferred r g hmode hsend
      exact ⟨hbytes, nofun, fun _ => hquiet⟩

end Sys2Proof.Machine
end

section
/-! PROOF. The glyph renderer's write list (R131, R132, R134): the masks FONT holds, complemented when `inverse` is 1,
one byte write for each, from the cursor cell's first pixel column on. -/

namespace Sys2Proof.Machine

/-- The columns of a glyph in the table are the entry's fields, in order (R41, R131). -/
theorem fontColumns_of_entry {c : Config} {g : Nat} {e : Glyph} (he : c.font[g]? = some e) :
    fontColumns c g = [e.col0, e.col1, e.col2, e.col3, e.col4, e.col5] := by
  rw [fontColumns, List.getD_eq_getElem?_getD, he, Option.getD_some]

@[simp] theorem length_glyphMasks (s : State) (g : Nat) : (glyphMasks s g).length = 6 := by
  rw [glyphMasks, List.length_map]; rfl

/-- Each mask is its FONT column, or the complement of it (R132). -/
theorem getElem?_glyphMasks (s : State) (g k : Nat) :
    (glyphMasks s g)[k]? = (fontColumns s.cfg g)[k]?.map fun m => if s.inverse then ~~~m else m := by
  rw [glyphMasks, List.getElem?_map]

/-- Every one of the six masks of a glyph in the table comes from a column of its entry (R131, R132). -/
theorem exists_column_of_entry {s : State} {g k : Nat} {e : Glyph} (he : s.cfg.font[g]? = some e) (hk : k < 6) :
    ∃ m, [e.col0, e.col1, e.col2, e.col3, e.col4, e.col5][k]? = some m ∧
      (glyphMasks s g)[k]? = some (if s.inverse then ~~~m else m) := by
  have hcolumn := List.getElem?_eq_getElem (l := [e.col0, e.col1, e.col2, e.col3, e.col4, e.col5]) hk
  exact ⟨_, hcolumn, by rw [getElem?_glyphMasks, fontColumns_of_entry he, hcolumn, Option.map_some]⟩

@[simp] theorem length_cellWrites1 (x p : Nat) (masks : List Byte) :
    (cellWrites1 x p masks).length = masks.length := by
  rw [cellWrites1, List.length_map, List.length_zipIdx]

/-- At scale 1 the `k`-th mask goes to the `k`-th pixel column of the cell (R134). -/
theorem getElem?_cellWrites1 (x p k : Nat) (masks : List Byte) :
    (cellWrites1 x p masks)[k]? = masks[k]?.map fun m => ⟨x + k, p, m⟩ := by
  rw [cellWrites1, List.getElem?_map, List.getElem?_zipIdx, Option.map_map, Nat.zero_add]
  rfl

theorem glyphWrites_of_scale_one {s : State} (hscale : s.scale = .one) (g : Nat) :
    glyphWrites s g = cellWrites1 (s.column.toNat * 6) s.row.toNat (glyphMasks s g) := by
  rw [glyphWrites, hscale]; rfl

/-- Settles O45: the list is one write per mask, and each mask comes from a column of the glyph's entry. -/
theorem glyphWritesAtScaleOne : Obligations.GlyphWritesAtScaleOne := by
  intro s g e hscale he
  rw [glyphWrites_of_scale_one hscale]
  refine ⟨by rw [length_cellWrites1, length_glyphMasks], fun k hk => ?_⟩
  obtain ⟨m, hcolumn, hmask⟩ := exists_column_of_entry he hk
  exact ⟨m, hcolumn, by rw [getElem?_cellWrites1, hmask, Option.map_some]⟩

end Sys2Proof.Machine
end

section
/-! PROOF. The cursor commands: the row advance of a line break (R151, R154), the clamped operands of SETCUR (R155),
and the registers after a PUTC that draws (R152, R153). -/

namespace Sys2Proof.Machine

/-! ### A line break -/

@[simp] theorem exec_lnbrk (s : State) : exec .lnbrk s = .next (lineBreak s) := rfl

/-- A line break is a row advance from column 0 (R151, R154). -/
theorem lineBreak_spec (s : State) :
    (lineBreak s).column = 0 ∧
    (lineBreak s).row.toNat = min (s.row.toNat + s.scale.toNat) (pages s - 1) ∧
    (lineBreak s).endFlag = (s.endFlag || decide (s.row.toNat + s.scale.toNat > pages s - 1)) := by
  obtain ⟨hrow, hend, hcolumn⟩ := rowAdvance_spec { s with column := 0 }
  exact ⟨hcolumn, hrow, hend⟩

theorem lineBreak_of_fits {s : State} (h : s.row.toNat + s.scale.toNat ≤ pages s - 1) :
    lineBreak s = { s with column := 0, row := BitVec.ofNat 3 (s.row.toNat + s.scale.toNat) } :=
  if_neg (Nat.not_lt.2 h)

theorem lineBreak_of_saturates {s : State} (h : pages s - 1 < s.row.toNat + s.scale.toNat) :
    lineBreak s = { s with column := 0, row := BitVec.ofNat 3 (pages s - 1), endFlag := true } :=
  if_pos h

/-- A line break does not read the recorded byte. -/
theorem lineBreak_lastByte (s : State) (b : Byte) :
    lineBreak { s with lastByte := b } = { lineBreak s with lastByte := b } := by
  obtain hsaturates | hfits := Nat.lt_or_ge (pages s - 1) (s.row.toNat + s.scale.toNat)
  · rw [lineBreak_of_saturates hsaturates]
    exact lineBreak_of_saturates hsaturates
  · rw [lineBreak_of_fits hfits]
    exact lineBreak_of_fits hfits

/-- A PUTC of byte 10 records it and breaks the line (R71, R153). -/
theorem exec_putc_newline {s : State} (hwf : s.cfg.wf = true) :
    exec (.putc 0x0A#8) s = .next { lineBreak s with lastByte := 0x0A#8 } := by
  have hres : resolve s.cfg.substAsCode 0x0A#8 s.lastByte = .newline := rfl
  rw [exec_putc_of_wf hwf, hres, ← lineBreak_lastByte]
  rfl

/-- Settles O31: LNBRK is the line break, and so is a newline byte, which only records itself besides. -/
theorem lineBreakAdvancesTheRow : Obligations.LineBreakAdvancesTheRow := by
  refine ⟨rfl, fun s => ⟨lineBreak s, exec_lnbrk s, ?_⟩⟩
  obtain ⟨hcolumn, hrow, hend⟩ := lineBreak_spec s
  exact ⟨hcolumn, hrow, hend, cursorOnly_lineBreak s, exec_putc_newline⟩

/-! ### SETCUR -/

theorem toNat_ofNat_of_fits {w n : Nat} (h : n < 2 ^ w) : (BitVec.ofNat w n).toNat = n := by
  rw [BitVec.toNat_ofNat, Nat.mod_eq_of_lt h]

@[simp] theorem exec_setcur (col row : Byte) (s : State) :
    exec (.setcur col row) s =
      .next { s with column := clampColumn col, row := clampRow (pages s) row, endFlag := false } := rfl

/-- The clamped column fits the five bits of the register (R11). -/
theorem clampColumn_toNat (col : Byte) : (clampColumn col).toNat = min col.toNat 19 := by
  have hfits : min col.toNat 19 < 2 ^ 5 := by omega
  exact toNat_ofNat_of_fits hfits

/-- The clamped row fits the three bits of the register, since PAGE_COUNT is at most 8 (R12). -/
theorem clampRow_toNat (s : State) (row : Byte) :
    (clampRow (pages s) row).toNat = min row.toNat (pages s - 1) := by
  have hpages := pages_eq s
  have hfits : min row.toNat (pages s - 1) < 2 ^ 3 := by omega
  exact toNat_ofNat_of_fits hfits

/-- Settles O30: both clamped operands fit their registers. -/
theorem setcurClampsAndClearsEnd : Obligations.SetcurClampsAndClearsEnd :=
  fun s col row => ⟨rfl, _, exec_setcur col row s, clampColumn_toNat col, clampRow_toNat s row, rfl, rfl⟩

/-! ### The advance after a glyph -/

/-- Inside the row only the column moves (R152). -/
theorem advance_of_fits {s : State} (h : s.column.toNat + s.scale.toNat < 20) :
    advance s = { s with column := BitVec.ofNat 5 (s.column.toNat + s.scale.toNat) } :=
  if_neg (Nat.not_le.2 h)

/-- At the end of the row the wrap is a line break (R152, R154). -/
theorem advance_of_wraps {s : State} (h : 20 ≤ s.column.toNat + s.scale.toNat) : advance s = lineBreak s :=
  if_pos h

/-- Where `Advance` leaves the cursor (R152). -/
theorem advance_spec (s : State) :
    (s.column.toNat + s.scale.toNat < 20 →
      (advance s).column.toNat = s.column.toNat + s.scale.toNat ∧ (advance s).row = s.row ∧
      (advance s).endFlag = s.endFlag) ∧
    (20 ≤ s.column.toNat + s.scale.toNat →
      (advance s).column = 0 ∧ (advance s).row.toNat = min (s.row.toNat + s.scale.toNat) (pages s - 1) ∧
      (advance s).endFlag = (s.endFlag || decide (s.row.toNat + s.scale.toNat > pages s - 1))) := by
  refine ⟨fun hfits => ?_, fun hwraps => ?_⟩
  · have hsmall : s.column.toNat + s.scale.toNat < 2 ^ 5 := by omega
    rw [advance_of_fits hfits]
    exact ⟨toNat_ofNat_of_fits hsmall, rfl, rfl⟩
  · rw [advance_of_wraps hwraps]
    exact lineBreak_spec s

/-! ### PUTC -/

/-- `exec_putc_of_drawn` with the value OOR takes: it is raised by a byte without an index (R153, R211). -/
theorem exec_putc_of_drawn_oor {s : State} {b : Byte} {r : Resolved} (hwf : s.cfg.wf = true)
    (hres : resolve s.cfg.substAsCode b s.lastByte = r) (hdrawn : r = .outOfRange ∨ ∃ g, r = .glyph g) :
    ∃ g, exec (.putc b) s =
      .next (advance (render (putcRecorded s b (s.oor || decide (r = .outOfRange))) g)) := by
  rw [exec_putc_of_wf hwf, hres]
  obtain rfl | ⟨g, rfl⟩ := hdrawn
  · exact ⟨blankGlyph, by rw [decide_eq_true rfl, Bool.or_true]; rfl⟩
  · exact ⟨g, by rw [decide_eq_false nofun, Bool.or_false]; rfl⟩

/-- The frame of drawing and then moving the cursor. -/
theorem eq_of_pixelOnly_cursorOnly {s u t : State} (hdraw : pixelOnly s u) (hmove : cursorOnly u t) :
    t = { s with column := t.column, row := t.row, endFlag := t.endFlag, sb := t.sb, pm := t.pm,
                 trace := t.trace } := by
  unfold pixelOnly cursorOnly at *
  rw [hmove, hdraw]

/-- Settles O43: the render leaves the cursor and the scale alone, so the advance starts from the old ones. -/
theorem putcAdvancesTheCursor : Obligations.PutcAdvancesTheCursor := by
  intro s b r hwf hres hdrawn
  obtain ⟨g, hexec⟩ := exec_putc_of_drawn_oor hwf hres hdrawn
  let recorded := putcRecorded s b (s.oor || decide (r = .outOfRange))
  have hdraw : pixelOnly recorded (render recorded g) := pixelOnly_render recorded g
  have hmove := advance_spec (render recorded g)
  obtain ⟨hcfg, hcolumn, hrow, hscale, -, -, hend, -⟩ := pixelOnly_fields hdraw
  have hpages : pages (render recorded g) = pages s := congrArg (·.pageCount.toNat) hcfg
  rw [hcolumn, hrow, hscale, hend, hpages] at hmove
  exact ⟨_, hexec, eq_of_pixelOnly_cursorOnly hdraw (cursorOnly_advance _), hmove⟩

end Sys2Proof.Machine
end

section
/-! PROOF. NOP (R158), CLRST (R159) and SETSCALE (R156): the commands without an effect on the cursor and the pixels,
and the step that collects an operand byte (R57). -/

namespace Sys2Proof.Machine

/-! ### NOP and the operand bytes -/

@[simp] theorem exec_nop (s : State) : exec .nop s = .next s := rfl

/-- While more than one operand byte is expected, an accepted byte is collected whatever its value (R57). -/
theorem step_of_operandByte {s : State} {op c : Byte} {need : Nat} {ops rest : List Byte} (hwf : s.cfg.wf = true)
    (hparse : s.parse = .collect op need ops) (hneed : need ≠ 1) (hin : s.input = c :: rest) :
    step s = .next { s with parse := .collect op (need - 1) (ops ++ [c]), input := rest } := by
  have hacc : acceptByte s.parse c = ⟨.collect op (need - 1) (ops ++ [c]), none⟩ := by
    rw [hparse]; exact if_neg hneed
  have hfetch : fetch s = .more { s with parse := .collect op (need - 1) (ops ++ [c]), input := rest } := by
    simp [fetch, hwf, hin, hacc]
  simp [step, hfetch]

/-- Settles O26: the parser collects any operand byte, so 0x00 too. -/
theorem nopChangesNothing : Obligations.NopChangesNothing :=
  ⟨rfl, exec_nop, fun _ _ _ _ _ hwf hparse hneed hin => step_of_operandByte hwf hparse hneed hin⟩

/-! ### CLRST -/

@[simp] theorem exec_clrst (s : State) : exec .clrst s = .next { s with oor := false, ill := false } := rfl

@[simp] theorem bitAt_false (k : Nat) : bitAt k false = 0#8 := rfl

/-- A mask keeps a bit of a register where the mask has a 1. -/
theorem bitAt_and (k : Nat) (b : Bool) (m : Byte) : bitAt k b &&& m = bitAt k (b && m.getLsbD k) := by
  cases b with
  | false => exact BitVec.zero_and
  | true =>
    change BitVec.twoPow 8 k &&& m = _
    rw [BitVec.twoPow_and]
    rfl

/-- The mask 0x09 keeps END and BUSY of STATUS and drops OOR and ILL (R17). -/
theorem statusReg_and_endBusy (s : State) : statusReg s &&& 0x09#8 = bitAt 0 s.endFlag ||| bitAt 3 (busy s) := by
  simp [statusReg, BitVec.and_or_distrib_right, bitAt_and]

/-- Settles O27: with OOR and ILL clear, STATUS is END and BUSY alone. -/
theorem clrstClearsOorAndIll : Obligations.ClrstClearsOorAndIll := by
  refine ⟨rfl, fun s => ⟨exec_clrst s, ?_⟩⟩
  rw [statusReg_and_endBusy]
  simp [statusReg, busy]

/-! ### SETSCALE -/

@[simp] theorem exec_setscale_one (s : State) : exec (.setscale 1#8) s = .next { s with scale := .one } := rfl

@[simp] theorem exec_setscale_two (s : State) : exec (.setscale 2#8) s = .next { s with scale := .two } := rfl

theorem exec_setscale_illegal {v : Byte} (h1 : v ≠ 1#8) (h2 : v ≠ 2#8) (s : State) :
    exec (.setscale v) s = .next { s with ill := true } :=
  (if_neg h1).trans (if_neg h2)

/-- Settles O28: one equation for each legal operand and one for all the others. -/
theorem setscaleSetsOrRaisesIll : Obligations.SetscaleSetsOrRaisesIll :=
  ⟨fun _ => rfl, fun s =>
    ⟨exec_setscale_one s, exec_setscale_two s, fun _ h1 h2 => exec_setscale_illegal h1 h2 s⟩⟩

end Sys2Proof.Machine
end

section
/-! PROOF. LINE (R190 to R192): what a fast path visits, and the two branches of LINE that take one. -/

namespace Sys2Proof.Machine

/-! ### The fast path -/

/-- The counter of a fast path is a list of naturals read as integers, which Lean elaborates as a monadic lift. -/
theorem bind_pure_natCast (l : List Nat) : (l >>= fun k => pure (k : Int)) = l.map Nat.cast :=
  List.map_eq_flatMap.symm

/-- Both directions count the same `k`, the distance from `a`; only the sign of the step differs. -/
theorem fastPath_eq_map_range (a b : Int) :
    fastPath a b = (List.range (b - a).natAbs).map fun k : Nat => if a < b then a + k else a - k := by
  unfold fastPath
  rw [bind_pure_natCast, bind_pure_natCast, List.map_map, List.map_map]
  by_cases hab : a < b
  · have hcount : (b - a).toNat = (b - a).natAbs := by omega
    simp only [if_pos hab, hcount, Function.comp_def]
  · have hcount : (a - b).toNat = (b - a).natAbs := by omega
    simp only [if_neg hab, hcount, Function.comp_def]

@[simp] theorem length_fastPath (a b : Int) : (fastPath a b).length = (b - a).natAbs := by
  rw [fastPath_eq_map_range, List.length_map, List.length_range]

theorem getElem?_fastPath {a b : Int} {k : Nat} (hk : k < (b - a).natAbs) :
    (fastPath a b)[k]? = some (if a < b then a + k else a - k) := by
  rw [fastPath_eq_map_range, List.getElem?_map, List.getElem?_range hk, Option.map_some]

/-! ### LINE along a fast path -/

/-- Equal x selects the vertical path, whatever the y are (R190, R191). -/
theorem linePoints_vertical (x y0 y1 : Int) :
    linePoints x y0 x y1 = (fastPath y0 y1).map fun y => (x, y) :=
  if_pos rfl

/-- Equal y selects the horizontal path only when the x differ (R190, R192). -/
theorem linePoints_horizontal {x0 x1 : Int} (hx : x0 ≠ x1) (y : Int) :
    linePoints x0 y x1 y = (fastPath x0 x1).map fun x => (x, y) :=
  (if_neg hx).trans (if_pos rfl)

/-- Settles O51: either branch of LINE maps the fast path's coordinates to points, one for one. -/
theorem fastPathsLeaveOutTheFarEndpoint : Obligations.FastPathsLeaveOutTheFarEndpoint := by
  refine ⟨fun x y0 y1 => ?vertical, fun y x0 x1 hx => ?horizontal⟩
  case vertical =>
    rw [linePoints_vertical]
    exact ⟨by simp, fun k hk => by simp [getElem?_fastPath hk]⟩
  case horizontal =>
    rw [linePoints_horizontal hx]
    exact ⟨by simp, fun k hk => by simp [getElem?_fastPath hk]⟩

end Sys2Proof.Machine
end

section
/-! PROOF. Reset (R230): the two resets differ only in the bytes the host offers and in the draw, and what the host
port, the stores and the step answer of a state whose registers, stores or command port are as reset leaves them. -/

namespace Sys2Proof.Machine

/-! ### The host port -/

@[simp] theorem hostRead_status (s : State) : hostRead s 0#8 = statusReg s := rfl

@[simp] theorem hostRead_cfg (s : State) : hostRead s 1#8 = cfgReg s.cfg := rfl

/-- With no condition raised and no partial command held, STATUS reads zero (R17). -/
theorem statusReg_eq_zero {s : State} (hend : s.endFlag = false) (hoor : s.oor = false) (hill : s.ill = false)
    (hidle : s.parse = .idle) : statusReg s = 0x00#8 := by
  have hbusy : busy s = false := by rw [busy, hidle]; rfl
  simp [statusReg, hend, hoor, hill, hbusy]

/-! ### The stores and the step -/

/-- A panel memory without a write reads as its draw everywhere (R20, R27). -/
theorem pmByte_of_empty {s : State} (h : s.pm = []) (i : Nat) : pmByte s i = Config.pmInit s.resets i := by
  rw [pmByte, h, Memory.read?_nil, Option.getD_none]

/-- A shadow buffer without a write reads as its draw everywhere (R19, R27). -/
theorem sbByte_of_empty {s : State} (h : s.sb = []) (i : Nat) : sbByte s i = Config.sbInit s.resets i := by
  rw [sbByte, h, Memory.read?_nil, Option.getD_none]

/-- With no byte offered the block waits, whatever its parser holds (R230). -/
theorem step_of_noInput {s : State} (hwf : s.cfg.wf = true) (hin : s.input = []) : step s = .next s := by
  have hfetch : fetch s = .wait := by simp [fetch, hwf, hin]
  simp [step, hfetch]

/-! ### The two resets -/

/-- Power-on and a later reset leave the same state up to the bytes still offered and the number of the draw. -/
theorem exists_resetWith_of_reset {c : Config} {s t : State} (h : t = State.resetWith c ∨ t = s.hardReset c) :
    ∃ (input : List Byte) (resets : Nat), t = { State.resetWith c with input := input, resets := resets } := by
  obtain hpower | hlater := h
  · exact ⟨[], 0, hpower⟩
  · exact ⟨s.input, s.resets + 1, hlater⟩

/-- Settles O11: the registers are read off the common form of the two resets, and the rest follows from them. -/
theorem resetLeavesTheStatedValues : Obligations.ResetLeavesTheStatedValues := by
  intro c s t h
  obtain ⟨input, resets, rfl⟩ := exists_resetWith_of_reset h
  refine ⟨rfl, rfl, rfl, rfl, rfl, rfl, rfl, rfl, rfl, rfl, rfl, ?status, hostRead_cfg _, ?wait, ?stores⟩
  case status => exact (hostRead_status _).trans (statusReg_eq_zero rfl rfl rfl rfl)
  case wait => exact fun hwf hin => step_of_noInput hwf hin
  case stores => exact fun i => ⟨pmByte_of_empty rfl i, sbByte_of_empty rfl i⟩

end Sys2Proof.Machine
end

section
/-! PROOF. The encoding (R50 to R55): decoding an encoded command, and the encoding of what was decoded. -/

namespace Sys2Proof

/-! ### Coordinates -/

/-- The two bytes of a coordinate put together are its sixteen bits (R53). -/
theorem high_append_low (w : Half) : (w.extractLsb' 8 8 ++ w.extractLsb' 0 8 : Half) = w := by
  have hjoin : (w.extractLsb' 8 8 ++ w.extractLsb' 0 8 : Half) = w.extractLsb' 0 16 :=
    BitVec.extractLsb'_append_extractLsb'_eq_extractLsb' rfl
  rw [hjoin, BitVec.extractLsb'_eq_self]

theorem i16OfBytes_of_fits {v : Int} (h : fitsI16 v) : i16OfBytes (i16Low v) (i16High v) = v := by
  obtain ⟨hlo, hhi⟩ := h
  rw [i16OfBytes, i16Low, i16High, high_append_low, BitVec.toInt_ofInt]
  exact Int.bmod_eq_of_le (by omega) (by omega)

theorem i16Bytes_i16OfBytes (lo hi : Byte) : i16Bytes (i16OfBytes lo hi) = [lo, hi] := by
  rw [i16Bytes, i16Low, i16High, i16OfBytes, BitVec.ofInt_toInt]
  have hlow : (hi ++ lo : Half).extractLsb' 0 8 = lo := BitVec.extractLsb'_append_eq_right
  have hhigh : (hi ++ lo : Half).extractLsb' 8 8 = hi := BitVec.extractLsb'_append_eq_left
  rw [hlow, hhigh]

theorem fitsI16_i16OfBytes (lo hi : Byte) : fitsI16 (i16OfBytes lo hi) := by
  have hlo := BitVec.le_toInt (hi ++ lo : Half)
  have hhi := BitVec.toInt_lt (x := (hi ++ lo : Half))
  unfold i16OfBytes fitsI16
  omega

/-! ### Reserved bytes -/

/-- A reserved byte decodes by itself to the command of its row (R55). -/
theorem decode_of_reserved {op : Byte} {i : Instr} (hop : 0x0B ≤ op.toNat) (hrow : decodeReserved op = i)
    (rest : List Byte) : decode (op :: rest) = .ok (i, rest) :=
  hrow ▸ Machine.decodeOp_of_reserved hop rest

/-- The row and the free bits of a reserved byte give the byte back (R55). -/
theorem encode_decodeReserved : ∀ op : Byte, 0x0B ≤ op.toNat → encode (decodeReserved op) = [op] := by decide

theorem wellFormed_decodeReserved (op : Byte) : (decodeReserved op).wellFormed = true := by
  unfold decodeReserved
  split_ifs <;> rfl

/-- Every byte is one of the eleven defined opcodes or reserved (R51, R55). -/
theorem opcode_cases (op : Byte) :
    op = 0x00#8 ∨ op = 0x01#8 ∨ op = 0x02#8 ∨ op = 0x03#8 ∨ op = 0x04#8 ∨ op = 0x05#8 ∨ op = 0x06#8 ∨
      op = 0x07#8 ∨ op = 0x08#8 ∨ op = 0x09#8 ∨ op = 0x0A#8 ∨ 0x0B ≤ op.toNat := by
  bv_omega

/-! ### The operand formats -/

theorem decodeU8_eq_ok {op : Byte} {mk : Byte → Instr} {bs rest : List Byte} {i : Instr}
    (h : decodeU8 op mk bs = .ok (i, rest)) : ∃ a, i = mk a ∧ bs = a :: rest := by
  unfold decodeU8 at h
  split at h
  next a rest' => cases h; exact ⟨a, rfl, rfl⟩
  next => cases h

theorem decodeU8U8_eq_ok {op : Byte} {mk : Byte → Byte → Instr} {bs rest : List Byte} {i : Instr}
    (h : decodeU8U8 op mk bs = .ok (i, rest)) : ∃ a b, i = mk a b ∧ bs = a :: b :: rest := by
  unfold decodeU8U8 at h
  split at h
  next a b rest' => cases h; exact ⟨a, b, rfl, rfl⟩
  next => cases h

theorem decodeP2_eq_ok {op : Byte} {mk : Int → Int → Instr} {bs rest : List Byte} {i : Instr}
    (h : decodeP2 op mk bs = .ok (i, rest)) :
    ∃ x y, i = mk x y ∧ (fitsI16 x ∧ fitsI16 y) ∧ bs = i16Bytes x ++ i16Bytes y ++ rest := by
  unfold decodeP2 at h
  split at h
  next xl xh yl yh rest' =>
    cases h
    exact ⟨_, _, rfl, ⟨fitsI16_i16OfBytes _ _, fitsI16_i16OfBytes _ _⟩, by simp [i16Bytes_i16OfBytes]⟩
  next => cases h

theorem decodeP4_eq_ok {op : Byte} {mk : Int → Int → Int → Int → Instr} {bs rest : List Byte} {i : Instr}
    (h : decodeP4 op mk bs = .ok (i, rest)) :
    ∃ x0 y0 x1 y1, i = mk x0 y0 x1 y1 ∧ (fitsI16 x0 ∧ fitsI16 y0 ∧ fitsI16 x1 ∧ fitsI16 y1) ∧
      bs = i16Bytes x0 ++ i16Bytes y0 ++ i16Bytes x1 ++ i16Bytes y1 ++ rest := by
  unfold decodeP4 at h
  split at h
  next =>
    cases h
    exact ⟨_, _, _, _, rfl, ⟨fitsI16_i16OfBytes _ _, fitsI16_i16OfBytes _ _, fitsI16_i16OfBytes _ _,
      fitsI16_i16OfBytes _ _⟩, by simp [i16Bytes_i16OfBytes]⟩
  next => cases h

theorem decodeP2_i16Bytes (op : Byte) (mk : Int → Int → Instr) {x y : Int} (hx : fitsI16 x) (hy : fitsI16 y)
    (rest : List Byte) : decodeP2 op mk (i16Bytes x ++ i16Bytes y ++ rest) = .ok (mk x y, rest) := by
  simp only [i16Bytes, List.cons_append, List.nil_append, decodeP2, i16OfBytes_of_fits hx, i16OfBytes_of_fits hy]

theorem decodeP4_i16Bytes (op : Byte) (mk : Int → Int → Int → Int → Instr) {x0 y0 x1 y1 : Int} (hx0 : fitsI16 x0)
    (hy0 : fitsI16 y0) (hx1 : fitsI16 x1) (hy1 : fitsI16 y1) (rest : List Byte) :
    decodeP4 op mk (i16Bytes x0 ++ i16Bytes y0 ++ i16Bytes x1 ++ i16Bytes y1 ++ rest) =
      .ok (mk x0 y0 x1 y1, rest) := by
  simp only [i16Bytes, List.cons_append, List.nil_append, decodeP4, i16OfBytes_of_fits hx0, i16OfBytes_of_fits hy0,
    i16OfBytes_of_fits hx1, i16OfBytes_of_fits hy1]

/-! ### The obligations -/

/-- Settles O1: the opcode byte selects the command's own branch of the decoder, whose operands are the encoded
ones; a reserved byte selects its row. -/
theorem decodeReturnsEncodedCommand : Obligations.DecodeReturnsEncodedCommand := by
  intro i rest hwf
  cases i with
  | nop | putc | lnbrk | setcur | setscale | setinv | clear | flush | clrst => rfl
  | dot x y =>
    obtain ⟨hx, hy⟩ := of_decide_eq_true hwf
    exact decodeP2_i16Bytes 0x08#8 _ hx hy rest
  | line x0 y0 x1 y1 =>
    obtain ⟨hx0, hy0, hx1, hy1⟩ := of_decide_eq_true hwf
    exact decodeP4_i16Bytes 0x09#8 _ hx0 hy0 hx1 hy1 rest
  | reserved0B => rfl
  | reserved0C low => exact decode_of_reserved (by revert low; decide) (by revert low; decide) rest
  | reserved10 low => exact decode_of_reserved (by revert low; decide) (by revert low; decide) rest
  | reserved20 low => exact decode_of_reserved (by revert low; decide) (by revert low; decide) rest
  | reserved40 low => exact decode_of_reserved (by revert low; decide) (by revert low; decide) rest
  | reserved80 low => exact decode_of_reserved (by revert low; decide) (by revert low; decide) rest

/-- Settles O2: in each branch of the decoder the operands it took are those that the command's encoding puts back. -/
theorem encodeReturnsDecodedBytes : Obligations.EncodeReturnsDecodedBytes := by
  intro bs rest i h
  cases bs with
  | nil => cases h
  | cons op ops =>
    obtain rfl | rfl | rfl | rfl | rfl | rfl | rfl | rfl | rfl | rfl | rfl | hop := opcode_cases op
    · cases h; exact ⟨rfl, rfl⟩
    · obtain ⟨b, rfl, rfl⟩ := decodeU8_eq_ok h; exact ⟨rfl, rfl⟩
    · cases h; exact ⟨rfl, rfl⟩
    · obtain ⟨col, row, rfl, rfl⟩ := decodeU8U8_eq_ok h; exact ⟨rfl, rfl⟩
    · obtain ⟨v, rfl, rfl⟩ := decodeU8_eq_ok h; exact ⟨rfl, rfl⟩
    · obtain ⟨v, rfl, rfl⟩ := decodeU8_eq_ok h; exact ⟨rfl, rfl⟩
    · cases h; exact ⟨rfl, rfl⟩
    · cases h; exact ⟨rfl, rfl⟩
    · obtain ⟨x, y, rfl, hfits, rfl⟩ := decodeP2_eq_ok h; exact ⟨decide_eq_true hfits, rfl⟩
    · obtain ⟨x0, y0, x1, y1, rfl, hfits, rfl⟩ := decodeP4_eq_ok h; exact ⟨decide_eq_true hfits, rfl⟩
    · cases h; exact ⟨rfl, rfl⟩
    · rw [decode_of_reserved hop rfl] at h
      cases h
      exact ⟨wellFormed_decodeReserved op, by rw [encode_decodeReserved op hop]; rfl⟩

/-- Settles O3: each word is one opcode byte of the table and its operand bytes, coordinates low byte first. -/
theorem wordsOfTheEncodingDecode : Obligations.WordsOfTheEncodingDecode :=
  ⟨rfl, rfl, rfl, rfl, rfl, rfl, rfl⟩

end Sys2Proof

namespace Sys2Proof.Machine

/-! ### The assembler's pseudo-instructions -/

/-- One line of PUTCs is two bytes for each byte of the text (R59, R161). -/
theorem flatMap_encode_putc (bs : List Byte) :
    (bs.map Instr.putc).flatMap encode = bs.flatMap fun b => [0x01#8, b] := by
  rw [List.flatMap_map]
  rfl

/-- Settles O59: each pseudo-instruction expands to PUTCs and at most one other command. -/
theorem pseudoInstructionsExpand : Obligations.PseudoInstructionsExpand := by
  intro bs
  refine ⟨?puts, ?println, ?putn, rfl⟩
  case puts => simp [assembleLines, expandLine, flatMap_encode_putc]
  case println => simp [assembleLines, expandLine, flatMap_encode_putc, encode]
  case putn => simp [assembleLines, expandLine, flatMap_encode_putc]

end Sys2Proof.Machine
end

section
/-! PROOF. The command port (R57, R58): what one accepted byte does, what one step can do, and how a run of steps
takes in a whole command. -/

namespace Sys2Proof.Machine

/-! ### Exactly one command -/

theorem decodeExact_eq_some_iff {bs : List Byte} {i : Instr} : decodeExact bs = some i ↔ decode bs = .ok (i, []) := by
  unfold decodeExact
  split
  next j hj => rw [hj]; simp
  next hno => exact ⟨nofun, fun h => absurd h (hno i)⟩

/-- As many bytes as the opcode byte calls for are always one command (R50, R51, R58). -/
theorem exists_decodeExact_of_length {op : Byte} {ops : List Byte} (hlen : (op :: ops).length = commandLength op) :
    ∃ i, decodeExact (op :: ops) = some i := by
  obtain rfl | rfl | rfl | rfl | rfl | rfl | rfl | rfl | rfl | rfl | rfl | hop := opcode_cases op
  · match ops, hlen with | [], _ => exact ⟨_, rfl⟩
  · match ops, hlen with | [_], _ => exact ⟨_, rfl⟩
  · match ops, hlen with | [], _ => exact ⟨_, rfl⟩
  · match ops, hlen with | [_, _], _ => exact ⟨_, rfl⟩
  · match ops, hlen with | [_], _ => exact ⟨_, rfl⟩
  · match ops, hlen with | [_], _ => exact ⟨_, rfl⟩
  · match ops, hlen with | [], _ => exact ⟨_, rfl⟩
  · match ops, hlen with | [], _ => exact ⟨_, rfl⟩
  · match ops, hlen with | [_, _, _, _], _ => exact ⟨_, rfl⟩
  · match ops, hlen with | [_, _, _, _, _, _, _, _], _ => exact ⟨_, rfl⟩
  · match ops, hlen with | [], _ => exact ⟨_, rfl⟩
  · rw [commandLength_of_reserved hop] at hlen
    match ops, hlen with | [], _ => exact ⟨_, decodeExact_of_reserved hop⟩

theorem one_le_commandLength (op : Byte) : 1 ≤ commandLength op := by
  unfold commandLength
  split_ifs <;> decide

/-- What R50 says of each command's encoding, for all of them. -/
theorem exists_encode_eq_cons (i : Instr) : Laws.EncodeLength.Statement i := by
  cases i with
  | nop => exact Laws.EncodeLength.nop
  | putc b => exact Laws.EncodeLength.putc b
  | lnbrk => exact Laws.EncodeLength.lnbrk
  | setcur col row => exact Laws.EncodeLength.setcur col row
  | setscale s => exact Laws.EncodeLength.setscale s
  | setinv i => exact Laws.EncodeLength.setinv i
  | clear => exact Laws.EncodeLength.clear
  | flush => exact Laws.EncodeLength.flush
  | dot x y => exact Laws.EncodeLength.dot x y
  | line x0 y0 x1 y1 => exact Laws.EncodeLength.line x0 y0 x1 y1
  | clrst => exact Laws.EncodeLength.clrst
  | reserved0B => exact Laws.EncodeLength.reserved0B
  | reserved0C low => exact Laws.EncodeLength.reserved0C low
  | reserved10 low => exact Laws.EncodeLength.reserved10 low
  | reserved20 low => exact Laws.EncodeLength.reserved20 low
  | reserved40 low => exact Laws.EncodeLength.reserved40 low
  | reserved80 low => exact Laws.EncodeLength.reserved80 low

/-! ### The parser on one byte -/

/-- The bytes a parser state holds, opcode byte first. -/
def Parse.held : Parse → List Byte
  | .idle => []
  | .collect op _ ops => op :: ops

/-- From a legal state the parser either holds one byte more and is still legal, or has a whole command and is Idle
(R57). -/
theorem acceptByte_cases {p : Parse} (hp : p.legal = true) (c : Byte) :
    (∃ p', acceptByte p c = ⟨p', none⟩ ∧ p'.legal = true ∧ p'.held = p.held ++ [c]) ∨
    (∃ op ops, acceptByte p c = ⟨.idle, some (op, ops)⟩ ∧ op :: ops = p.held ++ [c] ∧
      (op :: ops).length = commandLength op) := by
  cases p with
  | idle =>
    by_cases hlen : commandLength c = 1
    · exact .inr ⟨c, [], if_pos hlen, rfl, hlen.symm⟩
    · have hpos := one_le_commandLength c
      refine .inl ⟨_, if_neg hlen, decide_eq_true ?_, rfl⟩
      rw [List.length_nil]
      omega
  | collect op need ops =>
    obtain ⟨hneed, hlen⟩ := of_decide_eq_true hp
    by_cases hlast : need = 1
    · refine .inr ⟨op, ops ++ [c], if_pos hlast, rfl, ?_⟩
      rw [List.length_cons, List.length_append, List.length_singleton]
      omega
    · refine .inl ⟨_, if_neg hlast, decide_eq_true ?_, rfl⟩
      rw [List.length_append, List.length_singleton]
      omega

/-- A byte that completes a command leaves the parser Idle (R57). -/
theorem acceptByte_idle_of_run {p : Parse} {c : Byte} {bytes : Byte × List Byte}
    (h : (acceptByte p c).run = some bytes) : (acceptByte p c).parse = .idle := by
  cases p with
  | idle =>
    by_cases hlen : commandLength c = 1
    · simp [acceptByte, hlen]
    · simp [acceptByte, hlen] at h
  | collect op need ops =>
    by_cases hlast : need = 1
    · simp [acceptByte, hlast]
    · simp [acceptByte, hlast] at h

/-! ### One step -/

section
variable {s : State} {c : Byte} {rest : List Byte}

theorem step_of_collected {p : Parse} (hwf : s.cfg.wf = true) (hin : s.input = c :: rest)
    (hacc : acceptByte s.parse c = ⟨p, none⟩) : step s = .next { s with parse := p, input := rest } := by
  have hfetch : fetch s = .more { s with parse := p, input := rest } := by simp [fetch, hwf, hin, hacc]
  simp [step, hfetch]

theorem step_of_completed {op : Byte} {ops : List Byte} {i : Instr} (hwf : s.cfg.wf = true)
    (hin : s.input = c :: rest) (hacc : acceptByte s.parse c = ⟨.idle, some (op, ops)⟩)
    (hdec : decodeExact (op :: ops) = some i) : step s = exec i { s with parse := .idle, input := rest } := by
  have hfetch : fetch s = .command i { s with parse := .idle, input := rest } := by
    simp [fetch, hwf, hin, hacc, hdec]
  simp [step, hfetch]

end

theorem step_of_illFormed {s : State} (hwf : s.cfg.wf = false) : step s = .refused .illFormedConfig := by
  have hfetch : fetch s = .refuse .illFormedConfig := by simp [fetch, hwf]
  simp [step, hfetch]

/-- Everything a step can do under a well-formed FONT: wait, collect a byte, run a command, or stop at a parser state
that no stream leads to (R57, R230). -/
theorem step_cases {s : State} (hwf : s.cfg.wf = true) :
    step s = .next s ∨
    ∃ c rest, s.input = c :: rest ∧
      ((∃ p, acceptByte s.parse c = ⟨p, none⟩ ∧ step s = .next { s with parse := p, input := rest }) ∨
       (∃ i, step s = exec i { s with parse := .idle, input := rest }) ∨
       (∃ op ops, acceptByte s.parse c = ⟨.idle, some (op, ops)⟩ ∧ decodeExact (op :: ops) = none ∧
          step s = .fault .parserInconsistent)) := by
  cases hin : s.input with
  | nil => exact .inl (step_of_noInput hwf hin)
  | cons c rest =>
    refine .inr ⟨c, rest, rfl, ?_⟩
    rcases hacc : acceptByte s.parse c with ⟨p, run⟩
    cases run with
    | none => exact .inl ⟨p, rfl, step_of_collected hwf hin hacc⟩
    | some bytes =>
      obtain ⟨op, ops⟩ := bytes
      have hidle : p = .idle := by simpa [hacc] using acceptByte_idle_of_run (congrArg Accepted.run hacc)
      subst hidle
      cases hdec : decodeExact (op :: ops) with
      | some i => exact .inr (.inl ⟨i, step_of_completed hwf hin hacc hdec⟩)
      | none =>
        have hfetch : fetch s = .broken .parserInconsistent := by simp [fetch, hwf, hin, hacc, hdec]
        exact .inr (.inr ⟨op, ops, rfl, hdec, by simp [step, hfetch]⟩)

/-- A property that the port and every command keep is kept by every step. -/
theorem step_invariant {P : State → Prop} {s t : State} (hstep : step s = .next t) (hs : P s)
    (hport : ∀ p input, P { s with parse := p, input := input })
    (hexec : ∀ i u, P u → exec i u = .next t → P t) : P t := by
  cases hwf : s.cfg.wf with
  | false =>
    rw [step_of_illFormed hwf] at hstep
    cases hstep
  | true =>
    obtain h | ⟨c, rest, -, ⟨p, -, h⟩ | ⟨i, h⟩ | ⟨op, ops, -, -, h⟩⟩ := step_cases hwf
    · rw [h] at hstep
      cases hstep
      exact hs
    · rw [h] at hstep
      cases hstep
      exact hport p rest
    · exact hexec i _ (hport .idle rest) (h.symm.trans hstep)
    · rw [h] at hstep
      cases hstep

/-! ### No command stops -/

/-- With a well-formed FONT every command answers a next state (R210). -/
theorem exists_exec_eq_next {s : State} (hwf : s.cfg.wf = true) (i : Instr) : ∃ t, exec i s = .next t := by
  cases i with
  | putc b => exact ⟨_, exec_putc_of_wf hwf b⟩
  | setscale v => simp only [exec, execSetscale]; split_ifs <;> exact ⟨_, rfl⟩
  | setinv v => simp only [exec, execSetinv]; split_ifs <;> exact ⟨_, rfl⟩
  | nop | lnbrk | setcur | clear | flush | dot | line | clrst => exact ⟨_, rfl⟩
  | reserved0B | reserved0C | reserved10 | reserved20 | reserved40 | reserved80 => exact ⟨_, rfl⟩

/-! ### Runs of steps -/

theorem run_succ_of_next {s t : State} (h : step s = .next t) (k : Nat) :
    Sys2Proof.core.run (k + 1) s = Sys2Proof.core.run k t := by
  have hcore : Sys2Proof.core.step s = .next t := h
  simp only [Host.Core.run, hcore]

theorem run_one (s : State) : Sys2Proof.core.run 1 s = step s := by
  cases h : step s with
  | next t => exact run_succ_of_next h 0
  | fault r =>
    have hcore : Sys2Proof.core.step s = .fault r := h
    simp only [Host.Core.run, hcore]
    rfl
  | refused r =>
    have hcore : Sys2Proof.core.step s = .refused r := h
    simp only [Host.Core.run, hcore]
    rfl

/-- The steps that take in the operand bytes still missing: all but the last collect, and the last one runs the
command (R57). -/
theorem run_operands {op : Byte} {i : Instr} {more rest : List Byte} (hmore : more ≠ []) {s : State}
    {ops : List Byte} (hwf : s.cfg.wf = true) (hparse : s.parse = .collect op more.length ops)
    (hin : s.input = more ++ rest) (hdec : decodeExact (op :: (ops ++ more)) = some i) :
    Sys2Proof.core.run more.length s = exec i { s with parse := .idle, input := rest } := by
  induction more generalizing s ops with
  | nil => exact absurd rfl hmore
  | cons c more ih =>
    cases more with
    | nil =>
      have hacc : acceptByte s.parse c = ⟨.idle, some (op, ops ++ [c])⟩ := by rw [hparse]; rfl
      exact (run_one s).trans (step_of_completed hwf hin hacc hdec)
    | cons d more =>
      have hneed : (c :: d :: more).length ≠ 1 := by simp
      rw [List.length_cons, run_succ_of_next (step_of_operandByte hwf hparse hneed hin)]
      exact ih (List.cons_ne_nil d more) hwf rfl rfl (by rwa [List.append_assoc])

/-! ### The obligations -/

/-- From any legal parser state, whose held bytes stand before the stream (R58). -/
theorem parseStream_splits (bs : List Byte) {p : Parse} (hp : p.legal = true) :
    p.held ++ bs = (parseStream p bs).1.flatMap encode ++ (parseStream p bs).2.held ∧
      (parseStream p bs).2.legal = true := by
  induction bs generalizing p with
  | nil => exact ⟨List.append_nil _, hp⟩
  | cons c bs ih =>
    obtain ⟨p', hacc, hlegal, hheld⟩ | ⟨op, ops, hacc, hheld, hlen⟩ := acceptByte_cases hp c
    · have hrun : parseStream p (c :: bs) = parseStream p' bs := by simp [parseStream, hacc]
      rw [hrun, List.append_cons, ← hheld]
      exact ih hlegal
    · obtain ⟨i, hdec⟩ := exists_decodeExact_of_length hlen
      obtain ⟨-, henc⟩ := encodeReturnsDecodedBytes _ _ _ (decodeExact_eq_some_iff.1 hdec)
      have hrun : parseStream p (c :: bs) = (i :: (parseStream .idle bs).1, (parseStream .idle bs).2) := by
        simp [parseStream, hacc, hdec]
      obtain ⟨hsplit, hlegal⟩ := ih (p := .idle) rfl
      rw [hrun, List.append_cons, ← hheld, ← henc, List.append_nil, List.flatMap_cons, List.append_assoc, ← hsplit]
      exact ⟨rfl, hlegal⟩

/-- Settles O4: from Idle nothing is held, and the legal states at the end are the two the statement names. -/
theorem streamSplitsIntoCommands : Obligations.StreamSplitsIntoCommands := by
  intro bs
  obtain ⟨hsplit, hlegal⟩ := parseStream_splits bs (p := .idle) rfl
  refine ⟨_, hsplit, ?_⟩
  cases hend : (parseStream .idle bs).2 with
  | idle => exact .inl ⟨rfl, rfl⟩
  | collect op need ops =>
    rw [hend] at hlegal
    obtain ⟨hneed, hlen⟩ := of_decide_eq_true hlegal
    exact .inr ⟨op, need, ops, rfl, rfl, hneed, by rw [Parse.held, List.length_cons]; omega⟩

/-- Settles O5: with no byte on the port `fetch` answers that the block waits. -/
theorem blockWaitsForAByte : Obligations.BlockWaitsForAByte :=
  fun _ hwf hin => step_of_noInput hwf hin

/-- Settles O6: neither transition has a command to run. -/
theorem portCollectsOperandBytes : Obligations.PortCollectsOperandBytes := by
  intro s c rest hwf hin
  refine ⟨fun hidle hlen => step_of_collected hwf hin ?_, fun op need ops hparse hneed => ?_⟩
  · rw [hidle]
    exact if_neg hlen
  · exact step_of_operandByte hwf hparse hneed hin

/-- Settles O7: a byte that is a command by itself has length 1, and one that ends a collected command is its last. -/
theorem stepRunsTheDecodedCommand : Obligations.StepRunsTheDecodedCommand := by
  intro s c rest i hwf hin
  refine ⟨fun hidle hdec => ?_, fun op ops hparse hdec => ?_⟩
  · have henc : encode i = [c] := by simpa using (encodeReturnsDecodedBytes _ _ _ hdec).2
    obtain ⟨op, ops, hcons, hlen⟩ := exists_encode_eq_cons i
    obtain ⟨rfl, rfl⟩ := List.cons.inj (hcons.symm.trans henc)
    rw [henc] at hlen
    have hacc : acceptByte s.parse op = ⟨.idle, some (op, [])⟩ := by rw [hidle]; exact if_pos hlen.symm
    exact step_of_completed hwf hin hacc (decodeExact_eq_some_iff.2 hdec)
  · have hacc : acceptByte s.parse c = ⟨.idle, some (op, ops ++ [c])⟩ := by rw [hparse]; rfl
    exact step_of_completed hwf hin hacc (decodeExact_eq_some_iff.2 hdec)

/-- Settles O8: a one-byte command is one step; of a longer one the first step latches the opcode byte. -/
theorem runExecutesTheEncodedCommand : Obligations.RunExecutesTheEncodedCommand := by
  intro s i rest hwf hi hidle hin
  have hdec : decodeExact (encode i) = some i :=
    decodeExact_eq_some_iff.2 (by simpa using decodeReturnsEncodedCommand i [] hi)
  obtain ⟨op, ops, henc, hlen⟩ := exists_encode_eq_cons i
  rw [henc] at hin hdec hlen ⊢
  have hrest : { s with parse := .idle, input := rest } = { s with input := rest } := by rw [← hidle]
  cases ops with
  | nil =>
    have hacc : acceptByte s.parse op = ⟨.idle, some (op, [])⟩ := by rw [hidle]; exact if_pos hlen.symm
    rw [← hrest]
    exact (run_one s).trans (step_of_completed hwf hin hacc hdec)
  | cons c ops =>
    have hlong : commandLength op ≠ 1 := by rw [← hlen]; simp
    have hneed : commandLength op - 1 = (c :: ops).length := by rw [← hlen]; rfl
    have hacc : acceptByte s.parse op = ⟨.collect op (c :: ops).length [], none⟩ := by
      rw [hidle, ← hneed]; exact if_neg hlong
    rw [List.length_cons, run_succ_of_next (step_of_collected hwf hin hacc), ← hrest]
    exact run_operands (List.cons_ne_nil c ops) hwf rfl rfl hdec

/-- Settles O9: a legal parser state completes only byte sequences that decode, and no command stops. -/
theorem everyStepGoesOn : Obligations.EveryStepGoesOn := by
  intro s hwf hlegal
  obtain h | ⟨c, rest, hin, ⟨p, -, h⟩ | ⟨i, h⟩ | ⟨op, ops, hacc, hdec, -⟩⟩ := step_cases hwf
  · exact ⟨_, h⟩
  · exact ⟨_, h⟩
  · rw [h]
    exact exists_exec_eq_next (s := { s with parse := .idle, input := rest }) hwf i
  · obtain ⟨p', hcollect, -⟩ | ⟨op', ops', hcomplete, -, hlen⟩ := acceptByte_cases hlegal c
    · simp [hcollect] at hacc
    · obtain ⟨rfl, rfl⟩ : op' = op ∧ ops' = ops := by simpa [hcomplete] using hacc
      obtain ⟨i, hi⟩ := exists_decodeExact_of_length hlen
      simp [hi] at hdec

/-- The two conditions of R6. -/
theorem config_wf_iff (c : Config) : c.wf = true ↔ (∀ g ∈ c.font, g.col5 = 0#8) ∧
    (c.substAsCode = true → 159 ≤ c.font.length) ∧ (c.substAsCode = false → 182 ≤ c.font.length) := by
  unfold Config.wf Config.minGlyphs Config.glyphCount
  cases c.substAsCode <;> simp

/-- Settles O10: an ill-formed FONT is refused before a byte is read; under a well-formed one a step stops only with a
fault, and PUTC not at all. -/
theorem illFormedFontIsRefused : Obligations.IllFormedFontIsRefused := by
  intro s
  refine ⟨config_wf_iff s.cfg, fun hwf => ⟨step_of_illFormed hwf, fun b => ?_⟩, fun hwf => ⟨?_, fun b => ?_⟩⟩
  · have hrefuse : ¬ s.cfg.wf = true := by simp [hwf]
    exact if_neg hrefuse
  · obtain h | ⟨c, rest, -, ⟨p, -, h⟩ | ⟨i, h⟩ | ⟨op, ops, -, -, h⟩⟩ := step_cases hwf
    · simp [h]
    · simp [h]
    · obtain ⟨t, ht⟩ := exists_exec_eq_next (s := { s with parse := .idle, input := rest }) hwf i
      simp [h, ht]
    · simp [h]
  · simp [exec_putc_of_wf hwf]

end Sys2Proof.Machine
end

section
/-! PROOF. What each command writes (R26): one frame per command, and the rules about single registers that follow
from them (R15 to R17, R25). -/

namespace Sys2Proof.Machine

/-! ### PUTC -/

theorem eq_of_exec_putc {s t : State} {b : Byte} (h : exec (.putc b) s = .next t) :
    t = actOnResult (resolve s.cfg.substAsCode b s.lastByte) { s with lastByte := b } := by
  change execPutc b s = .next t at h
  unfold execPutc at h
  split at h
  · cases h; rfl
  · cases h

/-- `t` is `s` but for what a resolver result can write: OOR, the cursor, the pixel stores and the trace (R153). -/
def textOnly (s t : State) : Prop :=
  t = { s with oor := t.oor, column := t.column, row := t.row, endFlag := t.endFlag, sb := t.sb, pm := t.pm,
               trace := t.trace }

/-- Drawing a glyph and advancing is text-only whatever was raised before (R136, R152, R210). -/
theorem textOnly_draw (s : State) (oor : Bool) (g : Nat) :
    textOnly s (advance (render { s with oor := oor } g)) := by
  have h := eq_of_pixelOnly_cursorOnly (pixelOnly_render { s with oor := oor } g) (cursorOnly_advance _)
  unfold textOnly
  rw [h]

theorem textOnly_actOnResult (r : Resolved) (s : State) : textOnly s (actOnResult r s) := by
  cases r with
  | newline =>
    unfold textOnly
    rw [show actOnResult .newline s = _ from cursorOnly_lineBreak s]
  | suppress => rfl
  | glyph g => exact textOnly_draw s s.oor g
  | outOfRange => exact textOnly_draw s true blankGlyph

/-! ### The flags -/

theorem lineBreak_endFlag_of_set {s : State} (h : s.endFlag = true) : (lineBreak s).endFlag = true := by
  obtain ⟨-, -, hend⟩ := lineBreak_spec s
  rw [hend, h, Bool.true_or]

theorem advance_endFlag_of_set {s : State} (h : s.endFlag = true) : (advance s).endFlag = true := by
  obtain hfits | hwraps := Nat.lt_or_ge (s.column.toNat + s.scale.toNat) 20
  · rw [advance_of_fits hfits]
    exact h
  · rw [advance_of_wraps hwraps]
    exact lineBreak_endFlag_of_set h

theorem cursorOnly_oor {s t : State} (h : cursorOnly s t) : t.oor = s.oor := by rw [h]

/-- Drawing a glyph and advancing clears neither flag. -/
theorem draw_flags (s : State) (g : Nat) :
    (advance (render s g)).oor = s.oor ∧ (s.endFlag = true → (advance (render s g)).endFlag = true) := by
  obtain ⟨-, -, -, -, -, -, hend, hoor, -⟩ := pixelOnly_fields (pixelOnly_render s g)
  exact ⟨(cursorOnly_oor (cursorOnly_advance _)).trans hoor, fun h => advance_endFlag_of_set (hend.trans h)⟩

/-- Whatever the result, PUTC clears neither OOR nor endFlag (R16, R17). -/
theorem actOnResult_keeps_flags (r : Resolved) (s : State) :
    (s.oor = true → (actOnResult r s).oor = true) ∧ (s.endFlag = true → (actOnResult r s).endFlag = true) := by
  cases r with
  | newline => exact ⟨(cursorOnly_oor (cursorOnly_lineBreak s)).trans, lineBreak_endFlag_of_set⟩
  | suppress => exact ⟨id, id⟩
  | glyph g =>
    obtain ⟨hoor, hend⟩ := draw_flags s g
    exact ⟨hoor.trans, hend⟩
  | outOfRange =>
    obtain ⟨hoor, hend⟩ := draw_flags (raise .oor s) blankGlyph
    exact ⟨fun _ => hoor, hend⟩

/-! ### The two commands that check their operand -/

@[simp] theorem exec_setinv_zero (s : State) : exec (.setinv 0#8) s = .next { s with inverse := false } := rfl

@[simp] theorem exec_setinv_one (s : State) : exec (.setinv 1#8) s = .next { s with inverse := true } := rfl

theorem exec_setinv_illegal {v : Byte} (h0 : v ≠ 0#8) (h1 : v ≠ 1#8) (s : State) :
    exec (.setinv v) s = .next { s with ill := true } :=
  (if_neg h0).trans (if_neg h1)

/-- Settles O29: one equation for each legal operand and one for all the others. -/
theorem setinvSetsOrRaisesIll : Obligations.SetinvSetsOrRaisesIll :=
  ⟨fun _ => rfl, fun s =>
    ⟨exec_setinv_zero s, exec_setinv_one s, fun _ h0 h1 => exec_setinv_illegal h0 h1 s⟩⟩

/-- SETSCALE and SETINV write their own register or raise ILL (R156, R157). -/
theorem exec_setscale_cases (v : Byte) (s : State) :
    ∃ scale ill, (s.ill = true → ill = true) ∧ exec (.setscale v) s = .next { s with scale := scale, ill := ill } := by
  by_cases h1 : v = 1#8
  · exact ⟨.one, s.ill, id, h1 ▸ exec_setscale_one s⟩
  · by_cases h2 : v = 2#8
    · exact ⟨.two, s.ill, id, h2 ▸ exec_setscale_two s⟩
    · exact ⟨s.scale, true, fun _ => rfl, exec_setscale_illegal h1 h2 s⟩

theorem exec_setinv_cases (v : Byte) (s : State) :
    ∃ inverse ill, (s.ill = true → ill = true) ∧
      exec (.setinv v) s = .next { s with inverse := inverse, ill := ill } := by
  by_cases h0 : v = 0#8
  · exact ⟨false, s.ill, id, h0 ▸ exec_setinv_zero s⟩
  · by_cases h1 : v = 1#8
    · exact ⟨true, s.ill, id, h1 ▸ exec_setinv_one s⟩
    · exact ⟨s.inverse, true, fun _ => rfl, exec_setinv_illegal h0 h1 s⟩

/-! ### The frame of every command -/

/-- What command `i` may write, by the rows of R26's table: `t` is `s` but for those fields. -/
def Instr.frame (i : Instr) (s t : State) : Prop :=
  match i with
  | .nop => t = s
  | .putc b => textOnly { s with lastByte := b } t
  | .lnbrk | .setcur _ _ => cursorOnly s t
  | .setscale _ => t = { s with scale := t.scale, ill := t.ill }
  | .setinv _ => t = { s with inverse := t.inverse, ill := t.ill }
  | .clear | .flush | .dot _ _ | .line _ _ _ _ => pixelOnly s t
  | .clrst => t = { s with oor := t.oor, ill := t.ill }
  | .reserved0B | .reserved0C _ | .reserved10 _ | .reserved20 _ | .reserved40 _ | .reserved80 _ =>
    t = { s with ill := t.ill }

/-- Every command keeps to its row of R26's table. -/
theorem exec_frame {i : Instr} {s t : State} (h : exec i s = .next t) : Instr.frame i s t := by
  cases i with
  | nop => cases h; rfl
  | putc b => rw [eq_of_exec_putc h]; exact textOnly_actOnResult _ _
  | lnbrk => cases h; exact cursorOnly_lineBreak s
  | setcur col row => cases h; rfl
  | setscale v =>
    obtain ⟨scale, ill, -, hexec⟩ := exec_setscale_cases v s
    cases hexec.symm.trans h
    rfl
  | setinv v =>
    obtain ⟨inverse, ill, -, hexec⟩ := exec_setinv_cases v s
    cases hexec.symm.trans h
    rfl
  | clear => cases h; exact pixelOnly_clearAll s
  | flush => cases h; exact pixelOnly_flushShadow s
  | dot x y => cases h; exact pixelOnly_dot s x y
  | line x0 y0 x1 y1 => cases h; exact pixelOnly_dots s _
  | clrst => cases h; rfl
  | reserved0B | reserved0C | reserved10 | reserved20 | reserved40 | reserved80 => cases h; rfl

/-- No command writes the configuration, the parser, the offered bytes or the choice of the draws (R25). -/
theorem exec_keeps_context {i : Instr} {s t : State} (h : exec i s = .next t) :
    t.cfg = s.cfg ∧ t.parse = s.parse ∧ t.input = s.input ∧ t.resets = s.resets := by
  have hframe := exec_frame h
  cases i <;> (rw [hframe]; exact ⟨rfl, rfl, rfl, rfl⟩)

/-- Settles O15: the port writes the parser and the offered bytes only, and no command writes the configuration. -/
theorem stepKeepsTheConfiguration : Obligations.StepKeepsTheConfiguration := by
  intro s t h
  have hcfg : t.cfg = s.cfg := by
    refine step_invariant (P := fun u => u.cfg = s.cfg) h rfl (fun _ _ => rfl) fun i u hu hexec => ?_
    obtain ⟨hkeep, -⟩ := exec_keeps_context hexec
    exact hkeep.trans hu
  exact ⟨hcfg, by rw [hostRead_cfg, hostRead_cfg, hcfg]⟩

/-- Settles O19: PUTC can only set OOR, SETSCALE, SETINV and the reserved rows can only set ILL, and but for CLRST no
other command writes either. -/
theorem onlyClrstClearsConditions : Obligations.OnlyClrstClearsConditions := by
  intro s t i hne h
  have hframe := exec_frame h
  cases i with
  | clrst => exact absurd rfl hne
  | putc b =>
    obtain ⟨hoor, -⟩ := actOnResult_keeps_flags (resolve s.cfg.substAsCode b s.lastByte) { s with lastByte := b }
    rw [← eq_of_exec_putc h] at hoor
    exact ⟨hoor, fun hill => by rw [hframe]; exact hill⟩
  | setscale v =>
    obtain ⟨scale, ill, hsticky, hexec⟩ := exec_setscale_cases v s
    cases hexec.symm.trans h
    exact ⟨id, hsticky⟩
  | setinv v =>
    obtain ⟨inverse, ill, hsticky, hexec⟩ := exec_setinv_cases v s
    cases hexec.symm.trans h
    exact ⟨id, hsticky⟩
  | nop | lnbrk | setcur | clear | flush | dot | line => rw [hframe]; exact ⟨id, id⟩
  | reserved0B | reserved0C | reserved10 | reserved20 | reserved40 | reserved80 => cases h; exact ⟨id, fun _ => rfl⟩

/-- Settles O20: the frame of PUTC starts from the recorded byte, and no other frame has `lastByte`. -/
theorem onlyPutcWritesLastByte : Obligations.OnlyPutcWritesLastByte := by
  intro s t i h
  have hframe := exec_frame h
  cases i with
  | putc b => exact ⟨fun b' hb => by cases hb; rw [hframe], fun hne => absurd rfl (hne b)⟩
  | _ => exact ⟨nofun, fun _ => by rw [hframe]⟩

/-- Settles O21: a line break and a PUTC can only set endFlag, SETCUR clears it, and no other frame has it. -/
theorem endFlagHasItsWritersOnly : Obligations.EndFlagHasItsWritersOnly := by
  intro s t i h
  have hframe := exec_frame h
  cases i with
  | putc b =>
    obtain ⟨-, hend⟩ := actOnResult_keeps_flags (resolve s.cfg.substAsCode b s.lastByte) { s with lastByte := b }
    rw [← eq_of_exec_putc h] at hend
    exact ⟨fun _ => hend, fun _ _ => .inr ⟨b, rfl⟩⟩
  | lnbrk => cases h; exact ⟨fun _ => lineBreak_endFlag_of_set, fun _ _ => .inl rfl⟩
  | setcur col row => cases h; exact ⟨fun hne => absurd rfl (hne col row), fun _ => nofun⟩
  | _ => rw [hframe]; exact ⟨fun _ => id, fun hclear hset => absurd (hclear.symm.trans hset) nofun⟩

end Sys2Proof.Machine
end

section
/-! PROOF. The pixel stores and the trace: every command writes them through WriteBytes, CLEAR and FLUSH alone, so an
invariant of those is an invariant of every command (R100, R109, R110). -/

namespace Sys2Proof.Machine

/-! ### Invariants of the stores -/

/-- `t` has the configuration, the draws, the stores and the trace of `s`. -/
structure SameStores (s t : State) : Prop where
  cfg : t.cfg = s.cfg
  resets : t.resets = s.resets
  sb : t.sb = s.sb
  pm : t.pm = s.pm
  trace : t.trace = s.trace

theorem sameStores_of_cursorOnly {s t : State} (h : cursorOnly s t) : SameStores s t := by
  rw [h]; exact ⟨rfl, rfl, rfl, rfl, rfl⟩

theorem SameStores.pages_eq {s t : State} (h : SameStores s t) : pages t = pages s := by rw [pages, h.cfg, pages]

theorem SameStores.pmByte_eq {s t : State} (h : SameStores s t) (a : Nat) : pmByte t a = pmByte s a := by
  rw [pmByte, h.pm, h.resets, pmByte]

theorem SameStores.sbByte_eq {s t : State} (h : SameStores s t) (a : Nat) : sbByte t a = sbByte s a := by
  rw [sbByte, h.sb, h.resets, sbByte]

/-- A write list that fills a window of the panel, page-fastest (R113). -/
def isWindow (ws : List ByteWrite) : Prop :=
  ∃ x p r cols, (∀ col ∈ cols, col.length = r) ∧ ws = windowWrites x p cols

theorem isWindow_glyphWrites (s : State) (g : Nat) : isWindow (glyphWrites s g) :=
  ⟨_, _, _, _, length_of_mem_glyphColumns s g, glyphWrites_eq_windowWrites s g⟩

theorem isWindow_singleton (w : ByteWrite) : isWindow [w] :=
  ⟨w.x, w.p, 1, [[w.v]], by simp, rfl⟩

/-- Clipping a window leaves a window (R113). -/
theorem isWindow_clipWrites {ws : List ByteWrite} (h : isWindow ws) (n : Nat) : isWindow (clipWrites n ws) := by
  obtain ⟨x, p, r, cols, hlen, rfl⟩ := h
  refine ⟨x, p, min (n - p) r, _, fun col hcol => ?_, clipWrites_windowWrites n x p cols⟩
  obtain ⟨c, hc, rfl⟩ := List.mem_map.1 hcol
  rw [List.length_take, hlen c (List.mem_of_mem_take hc)]

/-- A property that each mode's byte write keeps is kept by WriteBytes (R100). -/
theorem writeBytes_invariant {P : State → Prop} {s : State} {ws : List ByteWrite} (hs : P s)
    (hdirect : s.cfg.mode = .direct → P (directWrite s (clipWrites (pages s) ws)))
    (hreadback : s.cfg.mode = .hardwareBuffer → ∀ u w, u.cfg = s.cfg → w.inBounds (pages s) = true → P u →
      P (readbackWrite u w))
    (hshadow : s.cfg.mode = .softwareBuffer → ∀ u w, u.cfg = s.cfg → w.inBounds (pages s) = true → P u →
      P (shadowWrite u w)) : P (writeBytes s ws) := by
  have hrun : ∀ f : State → ByteWrite → State, (∀ u w, (f u w).cfg = u.cfg) →
      (∀ u w, u.cfg = s.cfg → w.inBounds (pages s) = true → P u → P (f u w)) →
      P ((clipWrites (pages s) ws).foldl f s) := fun f hcfg hf =>
    And.left <| List.foldlRecOn (clipWrites (pages s) ws) f (motive := fun u => P u ∧ u.cfg = s.cfg) ⟨hs, rfl⟩
      fun u hu w hw => ⟨hf u w hu.2 (List.mem_filter.1 hw).2 hu.1, (hcfg u w).trans hu.2⟩
  cases hmode : s.cfg.mode with
  | direct => rw [writeBytes_of_direct hmode]; exact hdirect hmode
  | hardwareBuffer =>
    rw [writeBytes_of_hardwareBuffer hmode]
    exact hrun readbackWrite (fun _ _ => rfl) (hreadback hmode)
  | softwareBuffer =>
    rw [writeBytes_of_softwareBuffer hmode]
    exact hrun shadowWrite shadowWrite_keeps_cfg (hshadow hmode)

theorem writeBytes_invariant_of_hardwareBuffer {P : State → Prop} {s : State} {ws : List ByteWrite}
    (hmode : s.cfg.mode = .hardwareBuffer) (hs : P s)
    (hreadback : ∀ u w, u.cfg = s.cfg → P u → P (readbackWrite u w)) : P (writeBytes s ws) :=
  writeBytes_invariant hs (fun h => absurd (hmode.symm.trans h) nofun) (fun _ u w hu _ => hreadback u w hu)
    fun h => absurd (hmode.symm.trans h) nofun

theorem writeBytes_invariant_of_softwareBuffer {P : State → Prop} {s : State} {ws : List ByteWrite}
    (hmode : s.cfg.mode = .softwareBuffer) (hs : P s)
    (hshadow : ∀ u w, u.cfg = s.cfg → P u → P (shadowWrite u w)) : P (writeBytes s ws) :=
  writeBytes_invariant hs (fun h => absurd (hmode.symm.trans h) nofun) (fun h => absurd (hmode.symm.trans h) nofun)
    fun _ u w hu _ => hshadow u w hu

/-- A property of the stores and the trace that WriteBytes keeps is kept by DOT (R180). -/
theorem dot_invariant {P : State → Prop} (hwrite : ∀ u ws, isWindow ws → P u → P (writeBytes u ws)) {s : State}
    (hs : P s) (x y : Int) : P (dot s x y) := by
  unfold dot setPixel
  split
  · exact hs
  · split
    · exact hwrite s _ (isWindow_singleton _) hs
    · exact hs

/-- A property of the stores and the trace that WriteBytes keeps is kept by every command but CLEAR and FLUSH, which
the caller answers for. -/
theorem exec_invariant {P : State → Prop} (hsame : ∀ u v, SameStores u v → P u → P v)
    (hwrite : ∀ u ws, isWindow ws → P u → P (writeBytes u ws)) {i : Instr} {s t : State}
    (hclear : i = .clear → P (clearAll s)) (hflush : i = .flush → P (flushShadow s)) (hs : P s)
    (h : exec i s = .next t) : P t := by
  have hdraw : ∀ u g, P u → P (advance (render u g)) := fun u g hu =>
    hsame _ _ (sameStores_of_cursorOnly (cursorOnly_advance _)) (hwrite u _ (isWindow_glyphWrites u g) hu)
  have hframe := exec_frame h
  cases i with
  | putc b =>
    rw [eq_of_exec_putc h]
    have hrecorded : P { s with lastByte := b } := hsame s _ ⟨rfl, rfl, rfl, rfl, rfl⟩ hs
    cases resolve s.cfg.substAsCode b s.lastByte with
    | newline => exact hsame _ _ (sameStores_of_cursorOnly (cursorOnly_lineBreak _)) hrecorded
    | suppress => exact hrecorded
    | glyph g => exact hdraw _ g hrecorded
    | outOfRange => exact hdraw _ blankGlyph (hsame { s with lastByte := b } _ ⟨rfl, rfl, rfl, rfl, rfl⟩ hrecorded)
  | clear => cases h; exact hclear rfl
  | flush => cases h; exact hflush rfl
  | dot x y => cases h; exact dot_invariant hwrite hs x y
  | line x0 y0 x1 y1 =>
    cases h
    exact List.foldlRecOn (linePoints x0 y0 x1 y1) _ hs fun u hu q _ => dot_invariant hwrite hu q.1 q.2
  | _ => exact hsame s t (by rw [hframe]; exact ⟨rfl, rfl, rfl, rfl, rfl⟩) hs

/-! ### CLEAR and FLUSH -/

theorem fbSize_eq_of_cfg {s t : State} (h : t.cfg = s.cfg) : fbSize t = fbSize s := by
  rw [fbSize, pages, h, fbSize, pages]

@[simp] theorem exec_flush (s : State) : exec .flush s = .next (flushShadow s) := rfl

theorem flushShadow_of_shadow {s : State} (h : s.cfg.mode = .softwareBuffer) :
    flushShadow s = panelTxAll s ((List.range (fbSize s)).map (sbByte s)) := by
  simp [flushShadow, hasShadow, h]

theorem flushShadow_of_noShadow {s : State} (h : s.cfg.mode ≠ .softwareBuffer) : flushShadow s = s := by
  simp [flushShadow, hasShadow, h]

/-- FLUSH never writes the shadow buffer (R110). -/
theorem flushShadow_sb (s : State) : (flushShadow s).sb = s.sb := by
  unfold flushShadow
  split <;> rfl

/-- Settles O35: byte `i` of the transaction is the shadow byte of index `i`. -/
theorem flushCopiesShadowToPanel : Obligations.FlushCopiesShadowToPanel := by
  refine ⟨rfl, fun s => ⟨fun hmode => ?_, fun hmode => ?_⟩⟩
  · refine ⟨_, exec_flush s, pixelOnly_flushShadow s, flushShadow_sb s, ?_⟩
    rw [flushShadow_of_shadow hmode]
    refine ⟨fun i hi => pmByte_panelTxAll_of_getElem? s ?_, fun i hi => pmByte_panelTxAll_of_length_le s ?_, rfl⟩
    · rw [List.getElem?_map, List.getElem?_range hi, Option.map_some]
    · rwa [List.length_map, List.length_range]
  · rw [exec_flush, flushShadow_of_noShadow hmode]

/-- After CLEAR the panel, and the shadow buffer where there is one, read zero throughout (R109). -/
theorem clearAll_reads_zero (s : State) :
    (∀ i, i < fbSize s → pmByte (clearAll s) i = 0x00#8) ∧
    (s.cfg.mode = .softwareBuffer → ∀ i, i < fbSize s → sbByte (clearAll s) i = 0x00#8) := by
  obtain ⟨-, hclear⟩ := clearZeroesTheStores
  obtain ⟨t, hexec, -, hpm, -, hsb, -⟩ := hclear s
  cases hexec
  exact ⟨hpm, fun hmode => (hsb hmode).1⟩

/-! ### The rules about the stores -/

/-- Settles O16: each shadow write pushes the merged byte, CLEAR zeroes both stores, and FLUSH copies one to the
other. -/
theorem autoSendKeepsPanelEqualToShadow : Obligations.AutoSendKeepsPanelEqualToShadow := by
  intro s t hmode hsend hagree hstep
  refine And.right (step_invariant (P := fun u => u.cfg = s.cfg ∧ storesAgree u) hstep ⟨rfl, hagree⟩
    (fun _ _ => ⟨rfl, hagree⟩) fun i u hu h => ?_)
  obtain ⟨hcfg, hu⟩ := hu
  have hsoft : u.cfg.mode = .softwareBuffer := hcfg ▸ hmode
  refine exec_invariant (P := fun u => u.cfg = s.cfg ∧ storesAgree u) ?same ?write ?clear ?flush ⟨hcfg, hu⟩ h
  case same =>
    rintro u v hsame ⟨hcfg, hu⟩
    refine ⟨hsame.cfg.trans hcfg, fun a ha => ?_⟩
    rw [hsame.pmByte_eq, hsame.sbByte_eq]
    exact hu a (by rwa [← fbSize_eq_of_cfg hsame.cfg])
  case write =>
    rintro u ws - ⟨hcfg, hu⟩
    refine writeBytes_invariant_of_softwareBuffer (P := fun u => u.cfg = s.cfg ∧ storesAgree u) (hcfg ▸ hmode)
      ⟨hcfg, hu⟩ ?_
    rintro v w - ⟨hcfg, hv⟩
    have hkeep := shadowWrite_keeps_cfg v w
    obtain ⟨hsb, hpush, -⟩ := shadowWrite_spec v w
    obtain ⟨hpm, -⟩ := hpush (hcfg ▸ hsend)
    refine ⟨hkeep.trans hcfg, fun a ha => ?_⟩
    rw [hpm, hsb, hv a (by rwa [← fbSize_eq_of_cfg hkeep])]
  case clear =>
    rintro -
    have hkeep := pixelOnly_cfg (pixelOnly_clearAll u)
    obtain ⟨hpm, hsb⟩ := clearAll_reads_zero u
    refine ⟨hkeep.trans hcfg, fun a ha => ?_⟩
    rw [fbSize_eq_of_cfg hkeep] at ha
    rw [hpm a ha, hsb hsoft a ha]
  case flush =>
    rintro -
    have hkeep := pixelOnly_cfg (pixelOnly_flushShadow u)
    obtain ⟨-, hflush⟩ := flushCopiesShadowToPanel
    obtain ⟨v, hexec, hpixel, hsb, hpm, -⟩ := (hflush u).1 hsoft
    cases hexec
    refine ⟨hkeep.trans hcfg, fun a ha => ?_⟩
    rw [fbSize_eq_of_cfg hkeep] at ha
    rw [hpm a ha, sbByte, sbByte, hsb, pixelOnly_resets hpixel]

/-- Settles O17: a deferred shadow write touches neither the panel nor the trace. -/
theorem deferredModeLeavesThePanelAlone : Obligations.DeferredModeLeavesThePanelAlone := by
  intro s t i hmode hsend hclear hflush h
  refine And.right (exec_invariant (P := fun u => u.cfg = s.cfg ∧ u.pm = s.pm ∧ u.trace = s.trace) ?same ?write
    (fun h => absurd h hclear) (fun h => absurd h hflush) ⟨rfl, rfl, rfl⟩ h)
  case same =>
    rintro u v hsame ⟨hcfg, hpm, htrace⟩
    exact ⟨hsame.cfg.trans hcfg, hsame.pm.trans hpm, hsame.trace.trans htrace⟩
  case write =>
    rintro u ws - ⟨hcfg, hpm, htrace⟩
    refine writeBytes_invariant_of_softwareBuffer
      (P := fun u => u.cfg = s.cfg ∧ u.pm = s.pm ∧ u.trace = s.trace) (hcfg ▸ hmode) ⟨hcfg, hpm, htrace⟩ ?_
    rintro v w - ⟨hcfg, hpm, htrace⟩
    obtain ⟨-, -, hdefer⟩ := shadowWrite_spec v w
    obtain ⟨hpm', htrace'⟩ := hdefer (hcfg ▸ hsend)
    exact ⟨(shadowWrite_keeps_cfg v w).trans hcfg, hpm'.trans hpm, htrace'.trans htrace⟩

theorem keepsLit_refl (b : Byte) : keepsLit b b := BitVec.and_self

/-- ORing bits in darkens nothing (R239). -/
theorem keepsLit_or {old new : Byte} (h : keepsLit old new) (v : Byte) : keepsLit old (new ||| v) := by
  unfold keepsLit at *
  rw [BitVec.and_or_distrib_left, h]
  ext k
  simp only [BitVec.getElem_or, BitVec.getElem_and]
  exact sup_inf_self

/-- In HardwareBuffer mode a command other than CLEAR only ORs into the panel (R103, R239). -/
theorem exec_keepsLit_panel {i : Instr} {s t : State} (hmode : s.cfg.mode = .hardwareBuffer) (hne : i ≠ .clear)
    (h : exec i s = .next t) (a : Nat) : keepsLit (pmByte s a) (pmByte t a) := by
  refine And.right (exec_invariant (P := fun u => u.cfg = s.cfg ∧ keepsLit (pmByte s a) (pmByte u a)) ?same ?write
    (fun h => absurd h hne) ?flush ⟨rfl, keepsLit_refl _⟩ h)
  case same =>
    rintro u v hsame ⟨hcfg, hu⟩
    exact ⟨hsame.cfg.trans hcfg, hsame.pmByte_eq a ▸ hu⟩
  case write =>
    rintro u ws - ⟨hcfg, hu⟩
    refine writeBytes_invariant_of_hardwareBuffer
      (P := fun u => u.cfg = s.cfg ∧ keepsLit (pmByte s a) (pmByte u a)) (hcfg ▸ hmode) ⟨hcfg, hu⟩ ?_
    rintro v w - ⟨hcfg, hv⟩
    refine ⟨hcfg, ?_⟩
    rw [(readbackWrite_spec v w).1]
    split
    · exact keepsLit_or hv _
    · exact hv
  case flush =>
    rw [flushShadow_of_noShadow (by simp [hmode])]
    exact fun _ => ⟨rfl, keepsLit_refl _⟩

/-- In SoftwareBuffer mode a command other than CLEAR only ORs into the shadow buffer (R105, R239). -/
theorem exec_keepsLit_shadow {i : Instr} {s t : State} (hmode : s.cfg.mode = .softwareBuffer) (hne : i ≠ .clear)
    (h : exec i s = .next t) (a : Nat) : keepsLit (sbByte s a) (sbByte t a) := by
  refine And.right (exec_invariant (P := fun u => u.cfg = s.cfg ∧ keepsLit (sbByte s a) (sbByte u a)) ?same ?write
    (fun h => absurd h hne) ?flush ⟨rfl, keepsLit_refl _⟩ h)
  case same =>
    rintro u v hsame ⟨hcfg, hu⟩
    exact ⟨hsame.cfg.trans hcfg, hsame.sbByte_eq a ▸ hu⟩
  case write =>
    rintro u ws - ⟨hcfg, hu⟩
    refine writeBytes_invariant_of_softwareBuffer
      (P := fun u => u.cfg = s.cfg ∧ keepsLit (sbByte s a) (sbByte u a)) (hcfg ▸ hmode) ⟨hcfg, hu⟩ ?_
    rintro v w - ⟨hcfg, hv⟩
    refine ⟨(shadowWrite_keeps_cfg v w).trans hcfg, ?_⟩
    rw [(shadowWrite_spec v w).1]
    split
    · exact keepsLit_or hv _
    · exact hv
  case flush =>
    have hpixel := pixelOnly_flushShadow s
    refine fun _ => ⟨pixelOnly_cfg hpixel, ?_⟩
    rw [sbByte, sbByte, flushShadow_sb, pixelOnly_resets hpixel]
    exact keepsLit_refl _

/-- Settles O18: one store for each merging mode. -/
theorem onlyClearDarkensPixels : Obligations.OnlyClearDarkensPixels :=
  fun _ _ _ hne h => ⟨fun hmode => exec_keepsLit_panel hmode hne h, fun hmode => exec_keepsLit_shadow hmode hne h⟩

/-- Outside SoftwareBuffer mode no command writes the shadow buffer, which does not exist there (R19). -/
theorem exec_keeps_sb {i : Instr} {s t : State} (hmode : s.cfg.mode ≠ .softwareBuffer) (h : exec i s = .next t) :
    t.sb = s.sb := by
  refine And.right (exec_invariant (P := fun u => u.cfg = s.cfg ∧ u.sb = s.sb) ?same ?write ?clear ?flush
    ⟨rfl, rfl⟩ h)
  case same =>
    rintro u v hsame ⟨hcfg, hsb⟩
    exact ⟨hsame.cfg.trans hcfg, hsame.sb.trans hsb⟩
  case write =>
    rintro u ws - ⟨hcfg, hsb⟩
    refine ⟨(pixelOnly_cfg (pixelOnly_writeBytes u ws)).trans hcfg, Eq.trans ?_ hsb⟩
    cases hm : u.cfg.mode with
    | direct => rw [writeBytes_of_direct hm, directWrite_sb]
    | hardwareBuffer => rw [writeBytes_of_hardwareBuffer hm, foldl_readbackWrite_sb]
    | softwareBuffer => exact absurd (hcfg ▸ hm) hmode
  case clear =>
    rw [clearAll_of_noShadow hmode]
    exact fun _ => ⟨rfl, rfl⟩
  case flush =>
    rw [flushShadow_of_noShadow hmode]
    exact fun _ => ⟨rfl, rfl⟩

/-- Settles O22: every clause is a field that the command's frame does not have. -/
theorem commandsWriteOnlyTheirState : Obligations.CommandsWriteOnlyTheirState := by
  intro s t i h
  have hframe := exec_frame h
  obtain ⟨hcfg, hparse, hinput, hresets⟩ := exec_keeps_context h
  refine ⟨hcfg, hparse, hinput, hresets, fun hputc hlnbrk hsetcur => ?cursor, (onlyPutcWritesLastByte s t i h).2,
    fun hsetscale => ?scale, fun hsetinv => ?inverse, fun hputc hclrst => ?oor,
    fun hsetscale hsetinv hclrst h0B h0C h10 h20 h40 h80 => ?ill, fun hputc hclear hdot hline => ?stores,
    fun hmode => exec_keeps_sb hmode h⟩
  case cursor =>
    cases i with
    | putc b => exact absurd rfl (hputc b)
    | lnbrk => exact absurd rfl hlnbrk
    | setcur col row => exact absurd rfl (hsetcur col row)
    | _ => rw [hframe]; exact ⟨rfl, rfl, rfl⟩
  case scale =>
    cases i with
    | setscale v => exact absurd rfl (hsetscale v)
    | _ => rw [hframe]
  case inverse =>
    cases i with
    | setinv v => exact absurd rfl (hsetinv v)
    | _ => rw [hframe]
  case oor =>
    cases i with
    | putc b => exact absurd rfl (hputc b)
    | clrst => exact absurd rfl hclrst
    | _ => rw [hframe]
  case ill =>
    cases i with
    | setscale v => exact absurd rfl (hsetscale v)
    | setinv v => exact absurd rfl (hsetinv v)
    | clrst => exact absurd rfl hclrst
    | reserved0B => exact absurd rfl h0B
    | reserved0C low => exact absurd rfl (h0C low)
    | reserved10 low => exact absurd rfl (h10 low)
    | reserved20 low => exact absurd rfl (h20 low)
    | reserved40 low => exact absurd rfl (h40 low)
    | reserved80 low => exact absurd rfl (h80 low)
    | _ => rw [hframe]
  case stores =>
    cases i with
    | putc b => exact absurd rfl (hputc b)
    | clear => exact absurd rfl hclear
    | dot x y => exact absurd rfl (hdot x y)
    | line x0 y0 x1 y1 => exact absurd rfl (hline x0 y0 x1 y1)
    | flush => cases h; exact ⟨flushShadow_sb s, fun hne => absurd rfl hne⟩
    | _ => rw [hframe]; exact ⟨rfl, fun _ => ⟨rfl, rfl⟩⟩

end Sys2Proof.Machine
end

section
/-! PROOF. The two invariants of the whole machine: the trace explains panel memory and every read (R20, R36, R37,
R44), and every state a step leads to is legal (R11, R12, R19, R36, R42). -/

namespace Sys2Proof.Machine

/-! ### The trace explains the panel -/

/-- The invariant of `StepKeepsPanelExplainedByTrace`, in one piece. -/
def traceExplains (s : State) : Prop := panelIsTrace s ∧ readsSeeLastWrite s

theorem traceExplains_of_sameStores {s t : State} (h : SameStores s t) (hs : traceExplains s) : traceExplains t := by
  unfold traceExplains panelIsTrace readsSeeLastWrite at *
  rwa [h.pages_eq, h.pm, h.trace, h.resets]

theorem replayTrace_append_tx (n : Nat) (t : List BusEvent) (xa xb pa pb : Nat) (data : List Byte) :
    replayTrace n (t ++ [.tx xa xb pa pb data]) = (replayTrace n t).writeAll (windowCells n xa pa pb data) := by
  rw [replayTrace, List.foldl_append]
  rfl

theorem replayTrace_append_rd (n : Nat) (t : List BusEvent) (x p : Nat) (v : Byte) :
    replayTrace n (t ++ [.rd x p v]) = replayTrace n t := by
  rw [replayTrace, List.foldl_append]
  rfl

/-- An element of a list with one element at its end is that element, or stands before it. -/
theorem concat_eq_append_cons {α : Type} {l before after : List α} {e a : α} (h : l ++ [e] = before ++ a :: after) :
    (l = before ∧ e = a) ∨ ∃ rest, l = before ++ a :: rest := by
  obtain rfl | ⟨rest, e', rfl⟩ := List.eq_nil_or_concat' after
  · exact .inl (by simpa using h)
  · rw [← List.cons_append, ← List.append_assoc] at h
    exact .inr ⟨rest, (List.append_inj' h rfl).1⟩

theorem traceExplains_panelTx {s : State} (hs : traceExplains s) (xa xb pa pb : Nat) (data : List Byte) :
    traceExplains (panelTx s xa xb pa pb data) := by
  obtain ⟨hpanel, hreads⟩ := hs
  refine ⟨?_, fun before x p v after h => ?_⟩
  · rw [panelIsTrace, panelTx_trace, pages_panelTx, replayTrace_append_tx, ← hpanel, panelTx_pm]
  · obtain ⟨-, he⟩ | ⟨rest, hold⟩ := concat_eq_append_cons h
    · cases he
    · exact hreads before x p v rest hold

/-- A read returns what panel memory holds, which is the replay of the trace so far (R37). -/
theorem traceExplains_panelRd {s : State} (hs : traceExplains s) (x p : Nat) : traceExplains (panelRd s x p).2 := by
  obtain ⟨hpanel, hreads⟩ := hs
  refine ⟨?_, fun before x' p' v after h => ?_⟩
  · have hpages : pages (panelRd s x p).2 = pages s := rfl
    rw [panelIsTrace, panelRd_snd_trace, panelRd_snd_pm, hpages, replayTrace_append_rd, ← hpanel]
  · obtain ⟨rfl, he⟩ | ⟨rest, hold⟩ := concat_eq_append_cons h
    · cases he
      rw [pmByte, hpanel]
      rfl
    · exact hreads before x' p' v rest hold

theorem traceExplains_directWrite {s : State} (hs : traceExplains s) (ws : List ByteWrite) :
    traceExplains (directWrite s ws) := by
  cases ws with
  | nil => exact hs
  | cons w ws => exact traceExplains_panelTx hs _ _ _ _ _

theorem traceExplains_shadowWrite {s : State} (hs : traceExplains s) (w : ByteWrite) :
    traceExplains (shadowWrite s w) := by
  have hmerged : ∀ i v, traceExplains (sbWrite s i v) := fun _ _ => hs
  simp only [shadowWrite]
  split
  · exact traceExplains_panelTx (hmerged _ _) _ _ _ _ _
  · exact hmerged _ _

theorem traceExplains_writeBytes {s : State} (hs : traceExplains s) (ws : List ByteWrite) :
    traceExplains (writeBytes s ws) :=
  writeBytes_invariant hs (fun _ => traceExplains_directWrite hs _)
    (fun _ _ w _ _ hu => traceExplains_panelTx (traceExplains_panelRd hu w.x w.p) _ _ _ _ _)
    (fun _ _ w _ _ hu => traceExplains_shadowWrite hu w)

theorem traceExplains_clearAll {s : State} (hs : traceExplains s) : traceExplains (clearAll s) := by
  have hshadow : traceExplains (shadowClear s) := hs
  unfold clearAll
  split
  · exact traceExplains_panelTx hshadow _ _ _ _ _
  · exact traceExplains_panelTx hs _ _ _ _ _

theorem traceExplains_flushShadow {s : State} (hs : traceExplains s) : traceExplains (flushShadow s) := by
  unfold flushShadow
  split
  · exact traceExplains_panelTx hs _ _ _ _ _
  · exact hs

/-- Settles O14: panel memory is written by transactions alone and read by reads alone, and each is logged. -/
theorem stepKeepsPanelExplainedByTrace : Obligations.StepKeepsPanelExplainedByTrace := by
  intro s t hpanel hreads hstep
  have hs : traceExplains s := ⟨hpanel, hreads⟩
  exact step_invariant (P := traceExplains) hstep hs (fun _ _ => hs) fun i u hu h =>
    exec_invariant (fun _ _ => traceExplains_of_sameStores) (fun _ ws _ hv => traceExplains_writeBytes hv ws)
      (fun _ => traceExplains_clearAll hu) (fun _ => traceExplains_flushShadow hu) hu h

/-! ### Legal stores -/

/-- The part of `State.Legal` that is about the stores and the trace. -/
structure StoresLegal (s : State) : Prop where
  pm_wf : s.pm.wf = true
  sb_wf : s.sb.wf = true
  pm_within : s.pm.within (fbSize s) = true
  sb_within : s.sb.within (fbSize s) = true
  sb_mode : hasShadow s = false → s.sb = []
  trace_legal : ∀ e ∈ s.trace, e.legal s.cfg = true

theorem storesLegal_of_sameStores {s t : State} (h : SameStores s t) (hs : StoresLegal s) : StoresLegal t := by
  obtain ⟨hpmWf, hsbWf, hpmIn, hsbIn, hmode, htrace⟩ := hs
  have hshadow : hasShadow t = hasShadow s := by rw [hasShadow, h.cfg, hasShadow]
  rw [← h.sb] at hsbWf hsbIn hmode
  rw [← h.pm] at hpmWf hpmIn
  rw [← h.trace, ← h.cfg] at htrace
  rw [← fbSize_eq_of_cfg h.cfg] at hpmIn hsbIn
  rw [← hshadow] at hmode
  exact ⟨hpmWf, hsbWf, hpmIn, hsbIn, hmode, htrace⟩

theorem trace_legal_append {c : Config} {t : List BusEvent} (ht : ∀ e ∈ t, e.legal c = true) {e : BusEvent}
    (he : e.legal c = true) : ∀ e' ∈ t ++ [e], e'.legal c = true :=
  List.forall_mem_append.2 ⟨ht, List.forall_mem_singleton.2 he⟩

/-- The bytes of a transaction that meets R36's preconditions land inside the panel (R30, R42). -/
theorem windowCells_lt_of_legal {c : Config} {xa xb pa pb : Nat} {data : List Byte}
    (h : (BusEvent.tx xa xb pa pb data).legal c = true) :
    ∀ d ∈ windowCells c.pageCount.toNat xa pa pb data, d.1 < panelWidth * c.pageCount.toNat := by
  obtain ⟨hx, hxb, hp, hpb, hlen⟩ := of_decide_eq_true h
  intro d hd
  obtain ⟨b, hb, rfl⟩ := List.mem_map.1 hd
  have hheight : 0 < pb - pa + 1 := Nat.succ_pos _
  have hindex : b.2 < (xb - xa + 1) * (pb - pa + 1) := hlen ▸ List.snd_lt_of_mem_zipIdx hb
  have hcolumn : b.2 / (pb - pa + 1) < xb - xa + 1 := Nat.div_lt_of_lt_mul (by rwa [Nat.mul_comm])
  have hrow : b.2 % (pb - pa + 1) < pb - pa + 1 := Nat.mod_lt _ hheight
  exact fbIndex_lt (by omega) (by omega)

theorem storesLegal_panelTx {s : State} (hs : StoresLegal s) {xa xb pa pb : Nat} {data : List Byte}
    (he : (BusEvent.tx xa xb pa pb data).legal s.cfg = true) : StoresLegal (panelTx s xa xb pa pb data) where
  pm_wf := Memory.writeAll_wf _ _ hs.pm_wf
  sb_wf := hs.sb_wf
  pm_within := Memory.writeAll_within _ _ _ (windowCells_lt_of_legal he) hs.pm_within
  sb_within := hs.sb_within
  sb_mode := hs.sb_mode
  trace_legal := trace_legal_append hs.trace_legal he

theorem storesLegal_panelRd {s : State} (hs : StoresLegal s) {x p : Nat}
    (he : ∀ v, (BusEvent.rd x p v).legal s.cfg = true) : StoresLegal (panelRd s x p).2 where
  pm_wf := hs.pm_wf
  sb_wf := hs.sb_wf
  pm_within := hs.pm_within
  sb_within := hs.sb_within
  sb_mode := hs.sb_mode
  trace_legal := trace_legal_append hs.trace_legal (he _)

/-- Writing the shadow buffer inside its bounds, where there is one (R19, R42). -/
theorem storesLegal_sb {s : State} (hs : StoresLegal s) (hshadow : hasShadow s = true) {cells : List Host.Cell}
    (hin : ∀ c ∈ cells, c.1 < fbSize s) : StoresLegal { s with sb := s.sb.writeAll cells } where
  pm_wf := hs.pm_wf
  sb_wf := Memory.writeAll_wf _ _ hs.sb_wf
  pm_within := hs.pm_within
  sb_within := Memory.writeAll_within _ _ _ hin hs.sb_within
  sb_mode := fun h => absurd (hshadow.symm.trans h) nofun
  trace_legal := hs.trace_legal

/-! ### The bus events of each operation are legal -/

/-- A transaction of one byte on the panel (R36). -/
theorem legal_tx_single {c : Config} {x p : Nat} (hx : x < panelWidth) (hp : p < c.pageCount.toNat) (v : Byte) :
    (BusEvent.tx x x p p [v]).legal c = true :=
  decide_eq_true ⟨le_rfl, hx, le_rfl, hp, by simp⟩

/-- A transaction over the whole panel (R109, R110). -/
theorem legal_tx_all (s : State) {data : List Byte} (hlen : data.length = fbSize s) :
    (BusEvent.tx 0 (panelWidth - 1) 0 (pages s - 1) data).legal s.cfg = true := by
  have hpages : 0 < pages s := by have := pages_eq s; omega
  have hlast : pages s - 1 < pages s := Nat.sub_lt hpages Nat.one_pos
  refine decide_eq_true ⟨Nat.zero_le _, by decide, Nat.zero_le _, hlast, ?_⟩
  rw [hlen, Nat.sub_zero, Nat.sub_zero, Nat.sub_add_cancel hpages]
  rfl

theorem inBounds_iff {n : Nat} {w : ByteWrite} : w.inBounds n = true ↔ w.x < panelWidth ∧ w.p < n :=
  decide_eq_true_iff

theorem length_windowWrites {x p r : Nat} {cols : List (List Byte)} (hlen : ∀ col ∈ cols, col.length = r) :
    (windowWrites x p cols).length = cols.length * r := by
  induction cols generalizing x with
  | nil => simp
  | cons col cols ih =>
    obtain ⟨hcol, hcols⟩ := List.forall_mem_cons.1 hlen
    have hheight : (columnWrites x p col).length = r := by
      rw [← hcol, ← List.length_map (f := (·.v)), columnWrites_values]
    rw [windowWrites_cons, List.length_append, hheight, ih hcols, List.length_cons]
    ring

/-- Direct mode sends a window on the panel as one transaction that meets R36's preconditions (R101). -/
theorem storesLegal_directWrite {s : State} (hs : StoresLegal s) {ws : List ByteWrite} (hws : isWindow ws)
    (hin : ∀ w ∈ ws, w.inBounds (pages s) = true) : StoresLegal (directWrite s ws) := by
  obtain ⟨x, p, r, cols, hlen, rfl⟩ := hws
  by_cases hnil : windowWrites x p cols = []
  · rw [hnil]
    exact hs
  · obtain ⟨hcols, hr⟩ := not_or.1 (mt (windowWrites_eq_nil_iff hlen).2 hnil)
    have hwidth : 0 < cols.length := List.length_pos_of_ne_nil hcols
    have hlast := List.getLast?_eq_getLast_of_ne_nil hnil
    obtain ⟨hx, hp⟩ := getLast?_windowWrites hlen hlast
    obtain ⟨hxIn, hpIn⟩ := inBounds_iff.1 (hin _ (List.getLast_mem hnil))
    rw [directWrite_windowWrites s x p hlen hcols hr]
    refine storesLegal_panelTx hs (decide_eq_true ⟨by omega, by omega, by omega, ?_, ?_⟩)
    · change _ < pages s
      omega
    · rw [List.length_map, length_windowWrites hlen]
      congr 1 <;> omega

theorem storesLegal_readbackWrite {s : State} (hs : StoresLegal s) (hmode : s.cfg.mode = .hardwareBuffer)
    {w : ByteWrite} (hw : w.inBounds (pages s) = true) : StoresLegal (readbackWrite s w) := by
  obtain ⟨hx, hp⟩ := inBounds_iff.1 hw
  exact storesLegal_panelTx (storesLegal_panelRd hs fun _ => decide_eq_true ⟨hmode, hx, hp⟩) (legal_tx_single hx hp _)

theorem storesLegal_shadowWrite {s : State} (hs : StoresLegal s) (hmode : s.cfg.mode = .softwareBuffer)
    {w : ByteWrite} (hw : w.inBounds (pages s) = true) : StoresLegal (shadowWrite s w) := by
  obtain ⟨hx, hp⟩ := inBounds_iff.1 hw
  have hshadow : hasShadow s = true := by simp [hasShadow, hmode]
  have hmerged : ∀ v, StoresLegal (sbWrite s (fbIndex (pages s) w.x w.p) v) := fun v =>
    storesLegal_sb hs hshadow (cells := [(_, v)]) (List.forall_mem_singleton.2 (fbIndex_lt hx hp))
  simp only [shadowWrite]
  split
  · exact storesLegal_panelTx (hmerged _) (legal_tx_single hx hp _)
  · exact hmerged _

theorem storesLegal_writeBytes {s : State} (hs : StoresLegal s) {ws : List ByteWrite} (hws : isWindow ws) :
    StoresLegal (writeBytes s ws) := by
  have hpages : ∀ {u : State}, u.cfg = s.cfg → pages u = pages s := fun h => by rw [pages, h, pages]
  refine writeBytes_invariant hs (fun _ => ?direct) (fun hmode u w hcfg hw hu => ?readback)
    (fun hmode u w hcfg hw hu => ?shadow)
  case direct =>
    exact storesLegal_directWrite hs (isWindow_clipWrites hws _) fun w hw => (List.mem_filter.1 hw).2
  case readback => exact storesLegal_readbackWrite hu (hcfg ▸ hmode) (hpages hcfg ▸ hw)
  case shadow => exact storesLegal_shadowWrite hu (hcfg ▸ hmode) (hpages hcfg ▸ hw)

theorem storesLegal_clearAll {s : State} (hs : StoresLegal s) : StoresLegal (clearAll s) := by
  have hlen : (List.replicate (fbSize s) 0#8).length = fbSize s := List.length_replicate
  unfold clearAll
  split
  next hshadow =>
    have hzeroes : StoresLegal (shadowClear s) := storesLegal_sb hs hshadow fun c hc => by
      obtain ⟨i, hi, rfl⟩ := List.mem_map.1 hc
      exact List.mem_range.1 hi
    exact storesLegal_panelTx hzeroes (legal_tx_all (shadowClear s) hlen)
  next => exact storesLegal_panelTx hs (legal_tx_all s hlen)

theorem storesLegal_flushShadow {s : State} (hs : StoresLegal s) : StoresLegal (flushShadow s) := by
  unfold flushShadow
  split
  · exact storesLegal_panelTx hs (legal_tx_all s (by rw [List.length_map, List.length_range]))
  · exact hs

theorem storesLegal_exec {i : Instr} {s t : State} (hs : StoresLegal s) (h : exec i s = .next t) : StoresLegal t :=
  exec_invariant (fun _ _ => storesLegal_of_sameStores) (fun _ _ hws hu => storesLegal_writeBytes hu hws)
    (fun _ => storesLegal_clearAll hs) (fun _ => storesLegal_flushShadow hs) hs h

/-! ### Legal cursors -/

/-- The cursor is on the grid (R11, R12). -/
def cursorLegal (s : State) : Prop := s.column.toNat ≤ 19 ∧ s.row.toNat < pages s

theorem cursorLegal_of_pixelOnly {s t : State} (h : pixelOnly s t) (hs : cursorLegal s) : cursorLegal t := by
  rw [h]
  exact hs

theorem row_saturated_lt (s : State) (n : Nat) : min n (pages s - 1) < pages s := by
  have := pages_eq s
  omega

theorem cursorLegal_lineBreak (s : State) : cursorLegal (lineBreak s) := by
  obtain ⟨hcolumn, hrow, -⟩ := lineBreak_spec s
  have hpages : pages (lineBreak s) = pages s := (sameStores_of_cursorOnly (cursorOnly_lineBreak s)).pages_eq
  rw [cursorLegal, hcolumn, hrow, hpages]
  exact ⟨Nat.zero_le _, row_saturated_lt s _⟩

theorem cursorLegal_advance {s : State} (hs : cursorLegal s) : cursorLegal (advance s) := by
  obtain hfits | hwraps := Nat.lt_or_ge (s.column.toNat + s.scale.toNat) 20
  · obtain ⟨hcolumn, hrow, -⟩ := (advance_spec s).1 hfits
    have hpages : pages (advance s) = pages s := (sameStores_of_cursorOnly (cursorOnly_advance s)).pages_eq
    rw [cursorLegal, hcolumn, hrow, hpages]
    exact ⟨Nat.le_of_lt_succ hfits, hs.2⟩
  · rw [advance_of_wraps hwraps]
    exact cursorLegal_lineBreak s

theorem cursorLegal_actOnResult {s : State} (hs : cursorLegal s) (r : Resolved) : cursorLegal (actOnResult r s) := by
  have hdraw : ∀ u g, cursorLegal u → cursorLegal (advance (render u g)) := fun u g hu =>
    cursorLegal_advance (cursorLegal_of_pixelOnly (pixelOnly_render u g) hu)
  cases r with
  | newline => exact cursorLegal_lineBreak s
  | suppress => exact hs
  | glyph g => exact hdraw s g hs
  | outOfRange => exact hdraw (raise .oor s) blankGlyph hs

theorem cursorLegal_exec {i : Instr} {s t : State} (hs : cursorLegal s) (h : exec i s = .next t) : cursorLegal t := by
  have hframe := exec_frame h
  cases i with
  | putc b => rw [eq_of_exec_putc h]; exact cursorLegal_actOnResult (s := { s with lastByte := b }) hs _
  | lnbrk => cases h; exact cursorLegal_lineBreak s
  | setcur col row =>
    cases h
    refine ⟨(clampColumn_toNat col).trans_le (Nat.min_le_right _ _), ?_⟩
    exact (clampRow_toNat s row).trans_lt (row_saturated_lt s _)
  | _ => rw [hframe]; exact hs

/-! ### Legal states -/

theorem legal_iff (s : State) : s.Legal ↔ cursorLegal s ∧ StoresLegal s ∧ s.parse.legal = true := by
  constructor
  · rintro ⟨hcolumn, hrow, hpmWf, hsbWf, hpmIn, hsbIn, hmode, hparse, htrace⟩
    exact ⟨⟨hcolumn, hrow⟩, ⟨hpmWf, hsbWf, hpmIn, hsbIn, hmode, htrace⟩, hparse⟩
  · rintro ⟨⟨hcolumn, hrow⟩, ⟨hpmWf, hsbWf, hpmIn, hsbIn, hmode, htrace⟩, hparse⟩
    exact ⟨hcolumn, hrow, hpmWf, hsbWf, hpmIn, hsbIn, hmode, hparse, htrace⟩

/-- The parser stays in the states R57 leads to: a step leaves it alone, collects a byte, or ends Idle. -/
theorem parse_legal_step {s t : State} (hs : s.parse.legal = true) (hstep : step s = .next t) :
    t.parse.legal = true := by
  cases hwf : s.cfg.wf with
  | false => cases (step_of_illFormed hwf).symm.trans hstep
  | true =>
    obtain h | ⟨c, rest, -, ⟨p, hacc, h⟩ | ⟨i, h⟩ | ⟨op, ops, -, -, h⟩⟩ := step_cases hwf
    · cases h.symm.trans hstep
      exact hs
    · cases h.symm.trans hstep
      obtain ⟨p', hcollect, hlegal, -⟩ | ⟨op, ops, hcomplete, -⟩ := acceptByte_cases hs c
      · cases hacc.symm.trans hcollect
        exact hlegal
      · cases hacc.symm.trans hcomplete
    · obtain ⟨-, hparse, -⟩ := exec_keeps_context (h.symm.trans hstep)
      rw [hparse]
      rfl
    · cases h.symm.trans hstep

/-- Settles O13: the cursor and the stores are kept by every command, the parser by every step. -/
theorem stepKeepsTheStateLegal : Obligations.StepKeepsTheStateLegal := by
  intro s t hs hstep
  obtain ⟨hcursor, hstores, hparse⟩ := (legal_iff s).1 hs
  obtain ⟨hcursor', hstores'⟩ := step_invariant (P := fun u => cursorLegal u ∧ StoresLegal u) hstep
    ⟨hcursor, hstores⟩ (fun _ _ => ⟨hcursor, storesLegal_of_sameStores (s := s) ⟨rfl, rfl, rfl, rfl, rfl⟩ hstores⟩)
    fun i u ⟨hu, hu'⟩ h => ⟨cursorLegal_exec hu h, storesLegal_exec hu' h⟩
  exact (legal_iff t).2 ⟨hcursor', hstores', parse_legal_step hparse hstep⟩

theorem resetWith_legal (c : Config) : (State.resetWith c).Legal where
  column_le := Nat.zero_le _
  row_lt := by
    have := pages_eq (State.resetWith c)
    rw [resetWith_row]
    exact Nat.lt_of_lt_of_le (by decide) (by omega : 4 ≤ _)
  pm_wf := rfl
  sb_wf := rfl
  pm_within := rfl
  sb_within := rfl
  sb_mode _ := rfl
  parse_legal := rfl
  trace_legal := nofun

/-- Settles O12: the stores and the trace are empty after reset. -/
theorem resetIsLegal : Obligations.ResetIsLegal := by
  refine ⟨resetWith_legal Config.boot, fun c => ⟨resetWith_legal c, rfl, fun before x p v after h => ?_⟩⟩
  simp at h

end Sys2Proof.Machine
end

section
/-! PROOF. DOT out of bounds and repeated (R180, R182, R183), and LINE as a run of byte writes (R190, R196): one for
each of its points on the panel, in order. -/

namespace Sys2Proof.Machine

/-! ### DOT -/

theorem dot_of_outOfBounds {s : State} {x y : Int} (h : x < 0 ∨ x ≥ 128 ∨ y < 0 ∨ y ≥ 8 * (pages s : Int)) :
    dot s x y = s := by
  have hbounds : x < 0 ∨ x ≥ panelWidth ∨ y < 0 ∨ y ≥ panelHeight s := by
    simp only [panelWidth, panelHeight]; omega
  exact if_pos hbounds

/-- Settles O48: the bounds test of `Dot` comes before everything else. -/
theorem dotOutOfBoundsChangesNothing : Obligations.DotOutOfBoundsChangesNothing := by
  intro s x y h
  rw [exec_dot, dot_of_outOfBounds h]

theorem pixelInBounds_iff {s : State} {x y : Int} :
    pixelInBounds s x y = true ↔ 0 ≤ x ∧ x < 128 ∧ 0 ≤ y ∧ y < 8 * (pages s : Int) := by
  unfold pixelInBounds
  rw [decide_eq_true_iff]
  simp only [panelWidth, panelHeight]
  omega

theorem pixelInBounds_of_cfg {s t : State} (h : t.cfg = s.cfg) (x y : Int) :
    pixelInBounds t x y = pixelInBounds s x y := by
  rw [pixelInBounds, panelHeight, pages, h, pixelInBounds, panelHeight, pages]

/-- On the panel DOT is the one byte write of its pixel, and elsewhere nothing (R180, R182). -/
theorem dot_eq (s : State) (x y : Int) :
    dot s x y = if pixelInBounds s x y then writeBytes s [pixelWrite x y] else s := by
  split
  next h =>
    obtain ⟨hx, hx', hy, hy'⟩ := pixelInBounds_iff.1 h
    exact (dot_of_inBounds hx hx' hy hy').1
  next h =>
    rw [pixelInBounds_iff] at h
    exact dot_of_outOfBounds (by omega)

theorem clipWrites_pixelWrite {s : State} {x y : Int} (h : pixelInBounds s x y = true) :
    clipWrites (pages s) [pixelWrite x y] = [pixelWrite x y] := by
  obtain ⟨hx, hx', hy, hy'⟩ := pixelInBounds_iff.1 h
  exact (dot_of_inBounds hx hx' hy hy').2

/-- ORing the same bits in again changes nothing (R183). -/
theorem or_or_same (b v : Byte) : b ||| v ||| v = b ||| v := by
  rw [BitVec.or_assoc, BitVec.or_self]

theorem or_or_ite (c : Prop) [Decidable c] (b v : Byte) :
    (if c then (if c then b ||| v else b) ||| v else (if c then b ||| v else b)) = if c then b ||| v else b := by
  split
  · exact or_or_same b v
  · rfl

/-- Settles O50: a pixel write of the same bits to the same byte, overwriting or ORing, is the first one again. -/
theorem repeatedDotLeavesStoresAlone : Obligations.RepeatedDotLeavesStoresAlone := by
  intro s t u x y hst htu a
  rw [exec_dot] at hst htu
  cases hst
  cases htu
  have hcfg : (dot s x y).cfg = s.cfg := pixelOnly_cfg (pixelOnly_dot s x y)
  have hpages : pages (dot s x y) = pages s := by rw [pages, hcfg, pages]
  by_cases hin : pixelInBounds s x y = true
  · obtain ⟨hx, hx', hy, hy'⟩ := pixelInBounds_iff.1 hin
    obtain ⟨t, ht, -, hdirect, hreadback, hshadow⟩ := dotWritesItsPixel s x y _ _ hx hx' hy hy' rfl rfl
    cases ht
    obtain ⟨u, hu, hpixel, hdirect', hreadback', hshadow'⟩ :=
      dotWritesItsPixel (dot s x y) x y _ _ hx hx' hy (hpages.symm ▸ hy') rfl rfl
    cases hu
    have hresets := pixelOnly_resets hpixel
    rw [hcfg, hpages] at hdirect' hreadback' hshadow'
    cases hmode : s.cfg.mode with
    | direct =>
      obtain ⟨-, hpm, -⟩ := hdirect hmode
      obtain ⟨hsb', hpm', -⟩ := hdirect' hmode
      refine ⟨?_, by rw [sbByte, hsb', hresets, sbByte]⟩
      rw [hpm', hpm]
      split <;> rfl
    | hardwareBuffer =>
      obtain ⟨-, hpm, -⟩ := hreadback hmode
      obtain ⟨hsb', hpm', -⟩ := hreadback' hmode
      refine ⟨?_, by rw [sbByte, hsb', hresets, sbByte]⟩
      rw [hpm', hpm]
      exact or_or_ite _ _ _
    | softwareBuffer =>
      obtain ⟨hsb, hpush, -⟩ := hshadow hmode
      obtain ⟨hsb', hpush', hdefer'⟩ := hshadow' hmode
      refine ⟨?_, by rw [hsb', hsb]; exact or_or_ite _ _ _⟩
      cases hsend : s.cfg.autoSend with
      | true =>
        rw [(hpush' hsend).1, (hpush hsend).1, hsb]
        split
        · exact or_or_same _ _
        · rfl
      | false => rw [pmByte, (hdefer' hsend).1, hresets, pmByte]
  · have hout : pixelInBounds (dot s x y) x y = false := by
      rw [pixelInBounds, panelHeight, hpages]
      exact eq_false_of_ne_true hin
    rw [dot_eq (dot s x y), hout]
    exact ⟨rfl, rfl⟩

/-! ### LINE -/

@[simp] theorem exec_line (x0 y0 x1 y1 : Int) (s : State) :
    exec (.line x0 y0 x1 y1) s = .next (dots s (linePoints x0 y0 x1 y1)) := rfl

theorem execAll_map_dot (ps : List (Int × Int)) (s : State) :
    execAll (ps.map fun q => .dot q.1 q.2) s = .next (dots s ps) := by
  induction ps generalizing s with
  | nil => rfl
  | cons q ps ih => exact ih (dot s q.1 q.2)

/-- Settles O56: both sides fold `Dot` over the points. -/
theorem lineDotsEachPoint : Obligations.LineDotsEachPoint :=
  fun s x0 y0 x1 y1 => (execAll_map_dot (linePoints x0 y0 x1 y1) s).symm

/-- The byte writes of the points that are on the panel. -/
def pointWrites (s : State) (ps : List (Int × Int)) : List ByteWrite :=
  (ps.filter fun q => pixelInBounds s q.1 q.2).map fun q => pixelWrite q.1 q.2

theorem mem_pointWrites {s : State} {ps : List (Int × Int)} {w : ByteWrite} :
    w ∈ pointWrites s ps ↔ ∃ q ∈ ps, pixelInBounds s q.1 q.2 = true ∧ pixelWrite q.1 q.2 = w := by
  simp only [pointWrites, List.mem_map, List.mem_filter, and_assoc]

theorem pointWrites_of_cfg {s t : State} (h : t.cfg = s.cfg) (ps : List (Int × Int)) :
    pointWrites t ps = pointWrites s ps := by
  simp only [pointWrites, pixelInBounds_of_cfg h]

/-- If one byte write in the mode of `c` is `f`, then dotting points is `f` on the byte writes of those on the
panel. -/
theorem dots_eq_foldl {c : Config} {f : State → ByteWrite → State} (hcfg : ∀ s w, (f s w).cfg = s.cfg)
    (hf : ∀ s w, s.cfg = c → clipWrites (pages s) [w] = [w] → writeBytes s [w] = f s w) {s : State} (hs : s.cfg = c)
    (ps : List (Int × Int)) : dots s ps = (pointWrites s ps).foldl f s := by
  induction ps generalizing s with
  | nil => rfl
  | cons q ps ih =>
    change dots (dot s q.1 q.2) ps = _
    cases hin : pixelInBounds s q.1 q.2 with
    | false =>
      have hskip : pointWrites s (q :: ps) = pointWrites s ps := by simp [pointWrites, hin]
      rw [dot_eq, hin, hskip]
      exact ih hs
    | true =>
      have hfirst : pointWrites s (q :: ps) = pixelWrite q.1 q.2 :: pointWrites s ps := by simp [pointWrites, hin]
      have hkeep := hcfg s (pixelWrite q.1 q.2)
      rw [dot_eq, hin, if_pos rfl, hf s _ hs (clipWrites_pixelWrite hin), ih (hkeep.trans hs),
        pointWrites_of_cfg hkeep, hfirst, List.foldl_cons]

/-- The single-byte transaction of Direct mode (R102). -/
def overwrite (s : State) (w : ByteWrite) : State := panelTx s w.x w.x w.p w.p [w.v]

theorem dots_direct {s : State} (hmode : s.cfg.mode = .direct) (ps : List (Int × Int)) :
    dots s ps = (pointWrites s ps).foldl overwrite s := by
  refine dots_eq_foldl (c := s.cfg) (f := overwrite) (fun _ _ => rfl) (fun u w hu hclip => ?_) rfl ps
  rw [writeBytes_of_direct (hu ▸ hmode), hclip]
  rfl

theorem dots_hardwareBuffer {s : State} (hmode : s.cfg.mode = .hardwareBuffer) (ps : List (Int × Int)) :
    dots s ps = (pointWrites s ps).foldl readbackWrite s := by
  refine dots_eq_foldl (c := s.cfg) (f := readbackWrite) (fun _ _ => rfl) (fun u w hu hclip => ?_) rfl ps
  rw [writeBytes_of_hardwareBuffer (hu ▸ hmode), hclip]
  rfl

theorem dots_softwareBuffer {s : State} (hmode : s.cfg.mode = .softwareBuffer) (ps : List (Int × Int)) :
    dots s ps = (pointWrites s ps).foldl shadowWrite s := by
  refine dots_eq_foldl (c := s.cfg) shadowWrite_keeps_cfg (fun u w hu hclip => ?_) rfl ps
  rw [writeBytes_of_softwareBuffer (hu ▸ hmode), hclip]
  rfl

/-! ### The pixels of a merging line -/

/-- After a run of merging writes a bit is lit if it was, or if a write to its byte lights it. -/
theorem MergesByte.foldl_bit {c : Config} {f : State → ByteWrite → State} {rd : State → Nat → Byte}
    {ev : Byte → ByteWrite → List BusEvent} (hf : MergesByte c f rd ev) {s : State} (hs : s.cfg = c)
    (ws : List ByteWrite) (a k : Nat) :
    (rd (ws.foldl f s) a).getLsbD k =
      ((rd s a).getLsbD k || decide (∃ w ∈ ws, fbIndex (pages s) w.x w.p = a ∧ w.v.getLsbD k = true)) := by
  induction ws generalizing s with
  | nil => simp
  | cons w ws ih =>
    rw [List.foldl_cons, ih ((hf.keeps_cfg s w).trans hs), hf.pages_eq, hf.read s w hs]
    by_cases hw : fbIndex (pages s) w.x w.p = a <;> simp [hw, Bool.or_assoc]

theorem getLsbD_pixelMask (y : Int) (k : Nat) : (pixelMask y).getLsbD k = decide (y.toNat % 8 = k) := by
  change (BitVec.twoPow 8 _).getLsbD k = _
  rw [BitVec.getLsbD_twoPow, decide_eq_true (Nat.mod_lt _ (by decide)), Bool.true_and]

/-- A pixel on the panel is where it is by its byte and its bit (R31, R33). -/
theorem pixel_inj {s : State} {x y x' y' : Int} (h : pixelInBounds s x y = true) (h' : pixelInBounds s x' y' = true)
    (hbyte : pixelIndex s x y = pixelIndex s x' y') (hbit : y.toNat % 8 = y'.toNat % 8) : (x, y) = (x', y') := by
  obtain ⟨hx, -, hy, hyp⟩ := pixelInBounds_iff.1 h
  obtain ⟨hx', -, hy', hyp'⟩ := pixelInBounds_iff.1 h'
  have hpage : pixelPage y < pages s := by unfold pixelPage; omega
  have hpage' : pixelPage y' < pages s := by unfold pixelPage; omega
  obtain ⟨hcolumn, hpages⟩ := fbIndex_inj hpage hpage' hbyte
  unfold pixelPage at hpages
  exact Prod.ext (by omega) (by omega)

/-- The writes that light a pixel's bit are those of its own point. -/
theorem exists_pointWrite_iff {s : State} {x y : Int} (hin : pixelInBounds s x y = true) (ps : List (Int × Int)) :
    (∃ w ∈ pointWrites s ps, fbIndex (pages s) w.x w.p = pixelIndex s x y ∧ w.v.getLsbD (y.toNat % 8) = true) ↔
      (x, y) ∈ ps := by
  constructor
  · rintro ⟨w, hw, hbyte, hbit⟩
    obtain ⟨q, hq, hqin, rfl⟩ := mem_pointWrites.1 hw
    change (pixelMask q.2).getLsbD _ = true at hbit
    rw [getLsbD_pixelMask, decide_eq_true_iff] at hbit
    exact pixel_inj hqin hin hbyte hbit ▸ hq
  · intro hmem
    refine ⟨_, mem_pointWrites.2 ⟨(x, y), hmem, hin, rfl⟩, rfl, ?_⟩
    change (pixelMask y).getLsbD _ = true
    rw [getLsbD_pixelMask, decide_eq_true rfl]

/-- A merging line lights its points on the panel and no other pixel. -/
theorem MergesByte.foldl_pixel {c : Config} {f : State → ByteWrite → State} {rd : State → Nat → Byte}
    {ev : Byte → ByteWrite → List BusEvent} (hf : MergesByte c f rd ev) {s : State} (hs : s.cfg = c)
    (ps : List (Int × Int)) {x y : Int} (hin : pixelInBounds s x y = true) :
    (rd ((pointWrites s ps).foldl f s) (pixelIndex s x y)).getLsbD (y.toNat % 8) =
      ((rd s (pixelIndex s x y)).getLsbD (y.toNat % 8) || decide ((x, y) ∈ ps)) := by
  rw [hf.foldl_bit hs, decide_eq_decide.2 (exists_pointWrite_iff hin ps)]

/-! ### Bytes a line does not touch -/

theorem pmByte_foldl_overwrite (s : State) (ws : List ByteWrite) (a : Nat) :
    pmByte (ws.foldl overwrite s) a =
      ((ws.filter fun w => fbIndex (pages s) w.x w.p == a).getLast?.map (·.v)).getD (pmByte s a) := by
  induction ws using List.reverseRecOn with
  | nil => rfl
  | append_singleton ws w ih =>
    have hpages : pages (ws.foldl overwrite s) = pages s := by
      rw [pages, pixelOnly_cfg (pixelOnly_foldl overwrite (fun _ _ => pixelOnly_panelTx _ _ _ _ _ _) ws s), pages]
    rw [List.foldl_append, List.foldl_cons, List.foldl_nil, overwrite, pmByte_panelTx_single, ih, hpages,
      List.filter_append]
    by_cases hw : fbIndex (pages s) w.x w.p = a <;> simp [hw]

theorem foldl_overwrite_sb (s : State) (ws : List ByteWrite) : (ws.foldl overwrite s).sb = s.sb := by
  induction ws generalizing s with
  | nil => rfl
  | cons w ws ih => exact ih (overwrite s w)

theorem sbByte_of_pixelOnly {s t : State} (h : pixelOnly s t) (hsb : t.sb = s.sb) (a : Nat) :
    sbByte t a = sbByte s a := by
  rw [sbByte, hsb, pixelOnly_resets h, sbByte]

theorem pmByte_of_pixelOnly {s t : State} (h : pixelOnly s t) (hpm : t.pm = s.pm) (a : Nat) :
    pmByte t a = pmByte s a := by
  rw [pmByte, hpm, pixelOnly_resets h, pmByte]

/-- A byte without a point of the list reads as before, in every mode. -/
theorem dots_other {s : State} {ps : List (Int × Int)} {a : Nat}
    (ha : ∀ q ∈ ps, pixelInBounds s q.1 q.2 = true → pixelIndex s q.1 q.2 ≠ a) :
    pmByte (dots s ps) a = pmByte s a ∧ sbByte (dots s ps) a = sbByte s a := by
  have hws : ∀ w ∈ pointWrites s ps, fbIndex (pages s) w.x w.p ≠ a := by
    intro w hw
    obtain ⟨q, hq, hin, rfl⟩ := mem_pointWrites.1 hw
    exact ha q hq hin
  have hpixel := pixelOnly_dots s ps
  cases hmode : s.cfg.mode with
  | direct =>
    rw [dots_direct hmode] at hpixel ⊢
    refine ⟨?_, sbByte_of_pixelOnly hpixel (foldl_overwrite_sb s _) a⟩
    have hnone : (pointWrites s ps).filter (fun w => fbIndex (pages s) w.x w.p == a) = [] :=
      List.filter_eq_nil_iff.2 fun w hw => by simpa using hws w hw
    rw [pmByte_foldl_overwrite, hnone]
    rfl
  | hardwareBuffer =>
    rw [dots_hardwareBuffer hmode] at hpixel ⊢
    exact ⟨(readbackWrite_mergesByte s.cfg).foldl_read_other rfl hws,
      sbByte_of_pixelOnly hpixel (foldl_readbackWrite_sb s _) a⟩
  | softwareBuffer =>
    rw [dots_softwareBuffer hmode] at hpixel ⊢
    cases hsend : s.cfg.autoSend with
    | true =>
      have hnone : ¬∃ w ∈ pointWrites s ps, fbIndex (pages s) w.x w.p = a := fun ⟨w, hw, heq⟩ => hws w hw heq
      exact ⟨by rw [pmByte_foldl_shadowWrite_autoSend hsend, if_neg hnone],
        (shadowWrite_mergesByte_autoSend hsend).foldl_read_other rfl hws⟩
    | false =>
      exact ⟨pmByte_of_pixelOnly hpixel (foldl_shadowWrite_pm_deferred hsend _) a,
        (shadowWrite_mergesByte_deferred hsend).foldl_read_other rfl hws⟩

/-! ### The obligations -/

/-- A shadow write merges into the shadow buffer whatever AUTO_SEND is (R105). -/
theorem exists_shadowWrite_mergesByte (c : Config) : ∃ ev, MergesByte c shadowWrite sbByte ev := by
  cases hsend : c.autoSend with
  | true => exact ⟨_, shadowWrite_mergesByte_autoSend hsend⟩
  | false => exact ⟨_, shadowWrite_mergesByte_deferred hsend⟩

theorem pixelIndex_of_pixelOnly {s t : State} (h : pixelOnly s t) (x y : Int) :
    pixelIndex t x y = pixelIndex s x y := by
  rw [pixelIndex, pages, pixelOnly_cfg h, pixelIndex, pages]

/-- Settles O57: in both merging modes LINE is a run of merging byte writes, whose bits are those of its points. -/
theorem lineLightsExactlyItsPoints : Obligations.LineLightsExactlyItsPoints := by
  intro s x0 y0 x1 y1
  have hpixel := pixelOnly_dots s (linePoints x0 y0 x1 y1)
  refine ⟨_, exec_line x0 y0 x1 y1 s, hpixel, fun a ha => dots_other ha, fun hmode => ?readback, fun hmode => ?shadow⟩
  case readback =>
    refine ⟨by rw [dots_hardwareBuffer hmode, foldl_readbackWrite_sb], fun x y hin => ?_⟩
    rw [pmPixel, pixelIndex_of_pixelOnly hpixel, dots_hardwareBuffer hmode]
    exact (readbackWrite_mergesByte s.cfg).foldl_pixel rfl _ hin
  case shadow =>
    refine ⟨fun x y hin => ?_, fun hsend q hq hin => ?_, fun hsend => ?_⟩
    · obtain ⟨ev, hmerge⟩ := exists_shadowWrite_mergesByte s.cfg
      rw [sbPixel, pixelIndex_of_pixelOnly hpixel, dots_softwareBuffer hmode]
      exact hmerge.foldl_pixel rfl _ hin
    · have hwritten : ∃ w ∈ pointWrites s (linePoints x0 y0 x1 y1),
          fbIndex (pages s) w.x w.p = pixelIndex s q.1 q.2 := ⟨_, mem_pointWrites.2 ⟨q, hq, hin, rfl⟩, rfl⟩
      rw [dots_softwareBuffer hmode, pmByte_foldl_shadowWrite_autoSend hsend, if_pos hwritten]
    · exact deferredModeLeavesThePanelAlone s _ (.line x0 y0 x1 y1) hmode hsend nofun nofun (exec_line x0 y0 x1 y1 s)

/-- Settles O58: in Direct mode LINE is a run of overwrites, so the last write to a byte is what it holds. -/
theorem directLineKeepsTheLastPoint : Obligations.DirectLineKeepsTheLastPoint := by
  intro s x0 y0 x1 y1 hmode
  have hrun := dots_direct hmode (linePoints x0 y0 x1 y1)
  refine ⟨_, exec_line x0 y0 x1 y1 s, pixelOnly_dots s _, by rw [hrun, foldl_overwrite_sb], fun a => ?_⟩
  have hfilter : (pointWrites s (linePoints x0 y0 x1 y1)).filter (fun w => fbIndex (pages s) w.x w.p == a) =
      ((linePoints x0 y0 x1 y1).filter fun q => pixelInBounds s q.1 q.2 && pixelIndex s q.1 q.2 == a).map
        fun q => pixelWrite q.1 q.2 := by
    rw [pointWrites, List.filter_map, List.filter_filter]
    simp only [Bool.and_comm]
    rfl
  rw [hrun, pmByte_foldl_overwrite, hfilter, List.getLast?_map]
  cases ((linePoints x0 y0 x1 y1).filter fun q =>
    pixelInBounds s q.1 q.2 && pixelIndex s q.1 q.2 == a).getLast? <;> rfl

end Sys2Proof.Machine
end

section
/-! PROOF. The general path of LINE (R193 to R195). After `k` passes the registers are `i` steps in x and `j` steps in
y from the start, and `err` measures the distance from the ideal line; its bounds along the major axis say that the
loop steps along that axis in every pass and is at the far endpoint after max(dx, dy) of them. -/

namespace Sys2Proof.Machine

/-! ### One pass -/

/-- The steps in x of a pass that starts from `err = e`, 0 or 1 (R193). -/
def xMove (dy e : Int) : Int := if 2 * e > -dy then 1 else 0

/-- The steps in y of a pass that starts from `err = e`, 0 or 1 (R193). -/
def yMove (dx e : Int) : Int := if 2 * e < dx then 1 else 0

theorem xMove_eq (dy e : Int) : xMove dy e = 0 ∧ 2 * e ≤ -dy ∨ xMove dy e = 1 ∧ 2 * e > -dy := by
  unfold xMove
  split <;> omega

theorem yMove_eq (dx e : Int) : yMove dx e = 0 ∧ 2 * e ≥ dx ∨ yMove dx e = 1 ∧ 2 * e < dx := by
  unfold yMove
  split <;> omega

/-- A pass moves each coordinate by its sign or leaves it alone, and `err` follows. -/
theorem bresenhamStep_eq (dx dy sx sy : Int) (r : LineRegs) :
    bresenhamStep dx dy sx sy r =
      ⟨r.x + sx * xMove dy r.err, r.y + sy * yMove dx r.err,
        r.err - xMove dy r.err * dy + yMove dx r.err * dx⟩ := by
  by_cases hx : 2 * r.err > -dy <;> by_cases hy : 2 * r.err < dx <;> simp [bresenhamStep, xMove, yMove, hx, hy]

/-- A pass moves by at most one in each coordinate, and in at least one of them: `err` cannot hold back both. -/
theorem bresenhamStep_adjacent {dx dy sx sy : Int} (hdx : 0 < dx) (hdy : 0 < dy) (hsx : sx = 1 ∨ sx = -1)
    (hsy : sy = 1 ∨ sy = -1) (r : LineRegs) :
    ((bresenhamStep dx dy sx sy r).x - r.x).natAbs ≤ 1 ∧ ((bresenhamStep dx dy sx sy r).y - r.y).natAbs ≤ 1 ∧
      (r.x ≠ (bresenhamStep dx dy sx sy r).x ∨ r.y ≠ (bresenhamStep dx dy sx sy r).y) := by
  have hxMove := xMove_eq dy r.err
  have hyMove := yMove_eq dx r.err
  rw [bresenhamStep_eq]
  obtain rfl | rfl := hsx <;> obtain rfl | rfl := hsy <;> dsimp only <;> omega

/-! ### The loop as a list of iterates -/

/-- If the exit is reached first after `n` passes and the fuel allows it, the loop lists the iterates up to it. -/
theorem bresenhamLoop_eq_map_range {dx dy sx sy x1 y1 : Int} {n fuel : Nat} {r : LineRegs} (hfuel : n < fuel)
    (hbefore : ∀ k < n, ¬(((bresenhamStep dx dy sx sy)^[k] r).x = x1 ∧ ((bresenhamStep dx dy sx sy)^[k] r).y = y1))
    (hexit : ((bresenhamStep dx dy sx sy)^[n] r).x = x1 ∧ ((bresenhamStep dx dy sx sy)^[n] r).y = y1) :
    bresenhamLoop dx dy sx sy x1 y1 fuel r =
      (List.range (n + 1)).map fun k => (bresenhamStep dx dy sx sy)^[k] r := by
  induction fuel generalizing n r with
  | zero => exact absurd hfuel (Nat.not_lt_zero n)
  | succ fuel ih =>
    cases n with
    | zero => exact if_pos hexit
    | succ n =>
      have hstart : ¬(r.x = x1 ∧ r.y = y1) := hbefore 0 (Nat.succ_pos n)
      have htail := ih (r := bresenhamStep dx dy sx sy r) (Nat.lt_of_succ_lt_succ hfuel)
        (fun k hk => hbefore (k + 1) (Nat.succ_lt_succ hk)) hexit
      rw [bresenhamLoop, if_neg hstart, htail, List.range_succ_eq_map (n := n + 1),
        List.map_cons, List.map_map]
      rfl

/-! ### The course of the line -/

/-- After `k` passes: `i` steps in x, `j` steps in y, and `err = e`. Along the major axis every pass has made a step,
and `e` is bounded on both sides; with dx = dy both axes are major. -/
structure OnCourse (dx dy : Int) (k : Nat) (i j e : Int) : Prop where
  i_nonneg : 0 ≤ i
  j_nonneg : 0 ≤ j
  err_eq : e = (j + 1) * dx - (i + 1) * dy
  xMajor : dy ≤ dx → i = k ∧ -dy < 2 * e ∧ 2 * e < 3 * dx - 2 * dy
  yMajor : dx ≤ dy → j = k ∧ -dx < -(2 * e) ∧ -(2 * e) < 3 * dy - 2 * dx

section
variable {dx dy : Int} {k : Nat} {i j e : Int}

theorem onCourse_start (hdx : 0 < dx) (hdy : 0 < dy) : OnCourse dx dy 0 0 0 (dx - dy) where
  i_nonneg := le_rfl
  j_nonneg := le_rfl
  err_eq := by ring
  xMajor _ := by omega
  yMajor _ := by omega

theorem OnCourse.step (h : OnCourse dx dy k i j e) (hdx : 0 < dx) (hdy : 0 < dy) :
    OnCourse dx dy (k + 1) (i + xMove dy e) (j + yMove dx e) (e - xMove dy e * dy + yMove dx e * dx) := by
  obtain ⟨hi, hj, herr, hx, hy⟩ := h
  have hring : e - xMove dy e * dy + yMove dx e * dx =
      (j + yMove dx e + 1) * dx - (i + xMove dy e + 1) * dy := by rw [herr]; ring
  obtain ⟨ha, ha'⟩ | ⟨ha, ha'⟩ := xMove_eq dy e <;> obtain ⟨hb, hb'⟩ | ⟨hb, hb'⟩ := yMove_eq dx e <;>
    rw [ha, hb] at hring ⊢ <;>
    exact ⟨by omega, by omega, hring, fun hmajor => by have := hx hmajor; omega,
      fun hmajor => by have := hy hmajor; omega⟩

/-- The course does not pass the far endpoint in either coordinate. -/
theorem OnCourse.le (h : OnCourse dx dy k i j e) (hdx : 0 < dx) (hdy : 0 < dy) (hk : (k : Int) ≤ max dx dy) :
    i ≤ dx ∧ j ≤ dy := by
  obtain ⟨hi, hj, herr, hx, hy⟩ := h
  obtain hmajor | hmajor := le_total dy dx
  · obtain ⟨hik, -, hupper⟩ := hx hmajor
    have hidx : i ≤ dx := by omega
    refine ⟨hidx, not_lt.1 fun hj' => ?_⟩
    nlinarith [mul_nonneg (sub_nonneg.2 (Int.add_one_le_of_lt hj')) hdx.le, mul_nonneg (sub_nonneg.2 hidx) hdy.le]
  · obtain ⟨hjk, -, hupper⟩ := hy hmajor
    have hjdy : j ≤ dy := by omega
    refine ⟨not_lt.1 fun hi' => ?_, hjdy⟩
    nlinarith [mul_nonneg (sub_nonneg.2 (Int.add_one_le_of_lt hi')) hdy.le, mul_nonneg (sub_nonneg.2 hjdy) hdx.le]

/-- After max(dx, dy) passes, and not before, the course is at the far endpoint (R195). -/
theorem OnCourse.at_end_iff (h : OnCourse dx dy k i j e) (hdx : 0 < dx) (hdy : 0 < dy) (hk : (k : Int) ≤ max dx dy) :
    (i = dx ∧ j = dy) ↔ (k : Int) = max dx dy := by
  obtain ⟨hidx, hjdy⟩ := h.le hdx hdy hk
  obtain ⟨hi, hj, herr, hx, hy⟩ := h
  obtain hmajor | hmajor := le_total dy dx
  · obtain ⟨hik, hlower, -⟩ := hx hmajor
    refine ⟨fun _ => by omega, fun hend => ?_⟩
    have hi' : i = dx := by omega
    refine ⟨hi', le_antisymm hjdy (not_lt.1 fun hj' => ?_)⟩
    subst hi'
    nlinarith [mul_nonneg (sub_nonneg.2 (Int.add_one_le_of_lt hj')) hdx.le]
  · obtain ⟨hjk, hlower, -⟩ := hy hmajor
    refine ⟨fun _ => by omega, fun hend => ?_⟩
    have hj' : j = dy := by omega
    refine ⟨le_antisymm hidx (not_lt.1 fun hi' => ?_), hj'⟩
    subst hj'
    nlinarith [mul_nonneg (sub_nonneg.2 (Int.add_one_le_of_lt hi')) hdy.le]

/-- The model's own bound on `err`, before and between the updates of a pass (log 13). -/
theorem OnCourse.err_bound (h : OnCourse dx dy k i j e) (hdx : 0 < dx) (hdy : 0 < dy) :
    (2 * e).natAbs ≤ 3 * max dx dy ∧ (2 * e > -dy → (2 * (e - dy)).natAbs ≤ 3 * max dx dy) := by
  obtain hmajor | hmajor := le_total dy dx
  · have := h.xMajor hmajor
    omega
  · have := h.yMajor hmajor
    omega

end

/-! ### The passes of LINE -/

/-- The registers of pass `k` of the general path (R193). -/
def passAt (x0 y0 x1 y1 : Int) (k : Nat) : LineRegs :=
  (bresenhamStep (x1 - x0).natAbs (y1 - y0).natAbs (signStep x0 x1) (signStep y0 y1))^[k]
    ⟨x0, y0, (x1 - x0).natAbs - (y1 - y0).natAbs⟩

theorem passAt_succ (x0 y0 x1 y1 : Int) (k : Nat) :
    passAt x0 y0 x1 y1 (k + 1) =
      bresenhamStep (x1 - x0).natAbs (y1 - y0).natAbs (signStep x0 x1) (signStep y0 y1) (passAt x0 y0 x1 y1 k) :=
  Function.iterate_succ_apply' _ _ _

theorem signStep_eq (a b : Int) : signStep a b = 1 ∨ signStep a b = -1 := by
  unfold signStep
  split <;> simp

/-- From `a` the sign step counts toward `b`, which is |b - a| steps away. -/
theorem add_signStep_mul_eq_iff (a b i : Int) : a + signStep a b * i = b ↔ i = (b - a).natAbs := by
  unfold signStep
  split <;> omega

/-- On the way from `a` to `b` the coordinate stays between them. -/
theorem add_signStep_mul_mem {a b i : Int} (hi : 0 ≤ i) (hi' : i ≤ (b - a).natAbs) :
    min a b ≤ a + signStep a b * i ∧ a + signStep a b * i ≤ max a b := by
  unfold signStep
  split <;> omega

section
variable {x0 y0 x1 y1 : Int}

theorem natAbs_sub_pos {a b : Int} (h : a ≠ b) : (0 : Int) < (b - a).natAbs := by omega

theorem passAt_onCourse (hx : x0 ≠ x1) (hy : y0 ≠ y1) (k : Nat) :
    ∃ i j e, OnCourse (x1 - x0).natAbs (y1 - y0).natAbs k i j e ∧
      passAt x0 y0 x1 y1 k = ⟨x0 + signStep x0 x1 * i, y0 + signStep y0 y1 * j, e⟩ := by
  have hdx := natAbs_sub_pos hx
  have hdy := natAbs_sub_pos hy
  induction k with
  | zero => exact ⟨0, 0, _, onCourse_start hdx hdy, by simp [passAt]⟩
  | succ k ih =>
    obtain ⟨i, j, e, hcourse, hpass⟩ := ih
    refine ⟨_, _, _, hcourse.step hdx hdy, ?_⟩
    rw [passAt_succ, hpass, bresenhamStep_eq]
    simp only [mul_add, add_assoc]

/-- The loop ends by its exit after max(dx, dy) passes, and lists the passes up to it (R195). -/
theorem generalPasses_eq_map_range (hx : x0 ≠ x1) (hy : y0 ≠ y1) :
    generalPasses x0 y0 x1 y1 =
      (List.range (max (x1 - x0).natAbs (y1 - y0).natAbs + 1)).map (passAt x0 y0 x1 y1) := by
  have hexit : ∀ k ≤ max (x1 - x0).natAbs (y1 - y0).natAbs,
      ((passAt x0 y0 x1 y1 k).x = x1 ∧ (passAt x0 y0 x1 y1 k).y = y1) ↔
        k = max (x1 - x0).natAbs (y1 - y0).natAbs := by
    intro k hk
    obtain ⟨i, j, e, hcourse, hpass⟩ := passAt_onCourse hx hy k
    have hend := hcourse.at_end_iff (natAbs_sub_pos hx) (natAbs_sub_pos hy) (by omega)
    rw [hpass, add_signStep_mul_eq_iff, add_signStep_mul_eq_iff, hend]
    omega
  refine bresenhamLoop_eq_map_range ?_ (fun k hk => mt (hexit k hk.le).1 hk.ne) ((hexit _ le_rfl).2 rfl)
  omega

theorem linePoints_general (hx : x0 ≠ x1) (hy : y0 ≠ y1) :
    linePoints x0 y0 x1 y1 = (List.range (max (x1 - x0).natAbs (y1 - y0).natAbs + 1)).map fun k =>
      ((passAt x0 y0 x1 y1 k).x, (passAt x0 y0 x1 y1 k).y) := by
  rw [linePoints, if_neg hx, if_neg hy, generalPasses_eq_map_range hx hy, List.map_map]
  rfl

/-- Every pass is in the box of the endpoints (R194). -/
theorem passAt_mem_box (hx : x0 ≠ x1) (hy : y0 ≠ y1) {k : Nat}
    (hk : k < max (x1 - x0).natAbs (y1 - y0).natAbs + 1) :
    (min x0 x1 ≤ (passAt x0 y0 x1 y1 k).x ∧ (passAt x0 y0 x1 y1 k).x ≤ max x0 x1) ∧
    (min y0 y1 ≤ (passAt x0 y0 x1 y1 k).y ∧ (passAt x0 y0 x1 y1 k).y ≤ max y0 y1) := by
  obtain ⟨i, j, e, hcourse, hpass⟩ := passAt_onCourse hx hy k
  obtain ⟨hi, hj⟩ := hcourse.le (natAbs_sub_pos hx) (natAbs_sub_pos hy) (by omega)
  rw [hpass]
  exact ⟨add_signStep_mul_mem hcourse.i_nonneg hi, add_signStep_mul_mem hcourse.j_nonneg hj⟩

/-- A pass moves by at most one in each coordinate, and in at least one of them (R195). -/
theorem passAt_succ_adjacent (hx : x0 ≠ x1) (hy : y0 ≠ y1) (k : Nat) :
    ((passAt x0 y0 x1 y1 (k + 1)).x - (passAt x0 y0 x1 y1 k).x).natAbs ≤ 1 ∧
    ((passAt x0 y0 x1 y1 (k + 1)).y - (passAt x0 y0 x1 y1 k).y).natAbs ≤ 1 ∧
    ((passAt x0 y0 x1 y1 k).x ≠ (passAt x0 y0 x1 y1 (k + 1)).x ∨
      (passAt x0 y0 x1 y1 k).y ≠ (passAt x0 y0 x1 y1 (k + 1)).y) := by
  rw [passAt_succ]
  exact bresenhamStep_adjacent (natAbs_sub_pos hx) (natAbs_sub_pos hy) (signStep_eq x0 x1) (signStep_eq y0 y1) _

end

/-! ### The obligations -/

/-- Settles O52: the list of points is that of the passes 0 to max(dx, dy). -/
theorem generalLineReachesItsEndpoint : Obligations.GeneralLineReachesItsEndpoint := by
  intro x0 y0 x1 y1 hx hy
  rw [linePoints_general hx hy]
  refine ⟨by rw [List.length_map, List.length_range], by rw [List.range_succ_eq_map]; rfl, ?_⟩
  obtain ⟨i, j, e, hcourse, hpass⟩ := passAt_onCourse hx hy (max (x1 - x0).natAbs (y1 - y0).natAbs)
  have hlast : (max (x1 - x0).natAbs (y1 - y0).natAbs : Nat) = max ((x1 - x0).natAbs : Int) (y1 - y0).natAbs :=
    Nat.cast_max _ _
  obtain ⟨hi, hj⟩ := (hcourse.at_end_iff (natAbs_sub_pos hx) (natAbs_sub_pos hy) hlast.le).2 hlast
  rw [List.range_succ, List.map_append, List.map_singleton, List.getLast?_concat, hpass,
    (add_signStep_mul_eq_iff x0 x1 i).2 hi, (add_signStep_mul_eq_iff y0 y1 j).2 hj]

/-- Settles O53: neighbours in the list are one pass apart, and every pass is on course. -/
theorem generalLineStepsAreAdjacent : Obligations.GeneralLineStepsAreAdjacent := by
  intro x0 y0 x1 y1 hx hy
  rw [linePoints_general hx hy]
  constructor
  · intro k p q hp hq
    obtain ⟨l, hl, rfl⟩ := List.getElem?_eq_some_iff.1 hp
    obtain ⟨l', hl', rfl⟩ := List.getElem?_eq_some_iff.1 hq
    simp only [List.getElem_map, List.getElem_range]
    obtain ⟨hx', hy', hne⟩ := passAt_succ_adjacent hx hy k
    exact ⟨hx', hy', fun h => hne.elim (absurd (congrArg Prod.fst h)) (absurd (congrArg Prod.snd h))⟩
  · intro p hp
    obtain ⟨k, hk, rfl⟩ := List.mem_map.1 hp
    obtain ⟨⟨hxlo, hxhi⟩, hylo, hyhi⟩ := passAt_mem_box hx hy (List.mem_range.1 hk)
    exact ⟨hxlo, hxhi, hylo, hyhi⟩

/-- Settles O54: the coordinates stay in the box, and `err` in the bound of the course. -/
theorem generalLineFitsThirtyTwoBits : Obligations.GeneralLineFitsThirtyTwoBits := by
  rintro x0 y0 x1 y1 dx dy hx0 hy0 hx1 hy1 hx hy rfl rfl
  refine ⟨by omega, by omega, by omega, by omega, by omega, fun r hr => ?_⟩
  rw [generalPasses_eq_map_range hx hy] at hr
  obtain ⟨k, hk, rfl⟩ := List.mem_map.1 hr
  obtain ⟨hxbox, hybox⟩ := passAt_mem_box hx hy (List.mem_range.1 hk)
  obtain ⟨i, j, e, hcourse, hpass⟩ := passAt_onCourse hx hy k
  obtain ⟨hbound, hbetween⟩ := hcourse.err_bound (natAbs_sub_pos hx) (natAbs_sub_pos hy)
  have herr : (passAt x0 y0 x1 y1 k).err = e := by rw [hpass]
  rw [herr]
  refine ⟨by omega, by omega, by omega, by omega, by omega, fun h => ?_⟩
  have := hbetween h
  omega

/-- Refutes O55: the third pass of LINE 0, 0, 5, 1 has `err` = 6, and dx = 5. -/
theorem not_generalLineErrStaysInStatedBound : ¬ Obligations.GeneralLineErrStaysInStatedBound := by
  intro h
  have hpass : (⟨3, 1, 6⟩ : LineRegs) ∈ generalPasses 0 0 5 1 := by decide
  obtain ⟨-, hupper, -⟩ :=
    h 0 0 5 1 (by decide) (by decide) (by decide) (by decide) (by decide) (by decide) _ hpass
  exact absurd hupper (by decide)

end Sys2Proof.Machine
end

section
/-! PROOF. Runs of the cursor: repeated line breaks (R151, R160) and a row filled with characters (R152, R162). -/

namespace Sys2Proof.Machine

/-! ### Programs -/

theorem execAll_cons_of_next {i : Instr} {s t : State} (h : exec i s = .next t) (rest : List Instr) :
    execAll (i :: rest) s = execAll rest t := by
  rw [execAll, h]

/-- A program runs in two parts, one after the other (R24). -/
theorem execAll_append_of_next {first : List Instr} {s t : State} (h : execAll first s = .next t)
    (second : List Instr) : execAll (first ++ second) s = execAll second t := by
  induction first generalizing s with
  | nil => cases h; rfl
  | cons i first ih =>
    rw [List.cons_append, execAll]
    rw [execAll] at h
    cases hexec : exec i s with
    | next u => rw [hexec] at h; exact ih h
    | fault r => rw [hexec] at h; cases h
    | refused r => rw [hexec] at h; cases h

/-! ### Line breaks -/

theorem execAll_replicate_lnbrk (n : Nat) (s : State) :
    execAll (List.replicate n .lnbrk) s = .next (lineBreak^[n] s) := by
  induction n generalizing s with
  | zero => rfl
  | succ n ih => exact ih (lineBreak s)

theorem cursorOnly_trans {s t u : State} (h : cursorOnly s t) (k : cursorOnly t u) : cursorOnly s u := by
  unfold cursorOnly at *
  rw [k, h]

/-- After `n` line breaks the row has saturated once, however many of them were clamped (R151, R160). -/
theorem lineBreak_iterate_spec {s : State} (hrow : s.row.toNat < pages s) (n : Nat) :
    (lineBreak^[n] s).row.toNat = min (s.row.toNat + n * s.scale.toNat) (pages s - 1) ∧
    (lineBreak^[n] s).endFlag = (s.endFlag || decide (s.row.toNat + n * s.scale.toNat > pages s - 1)) ∧
    cursorOnly s (lineBreak^[n] s) := by
  induction n with
  | zero =>
    have hfits : ¬ s.row.toNat > pages s - 1 := by omega
    exact ⟨by simp; omega, by simp [hfits], rfl⟩
  | succ n ih =>
    obtain ⟨hr, he, hframe⟩ := ih
    have hscale : (lineBreak^[n] s).scale = s.scale := by rw [hframe]
    have hpages : pages (lineBreak^[n] s) = pages s := (sameStores_of_cursorOnly hframe).pages_eq
    obtain ⟨-, hr', he'⟩ := lineBreak_spec (lineBreak^[n] s)
    rw [hr, hscale, hpages] at hr' he'
    rw [Function.iterate_succ_apply', Nat.add_one_mul]
    refine ⟨by omega, ?_, cursorOnly_trans hframe (cursorOnly_lineBreak _)⟩
    rw [he', he, Bool.or_assoc, ← Bool.decide_or]
    congr 2
    exact propext (by omega)

/-- Settles O32: the last of the line breaks leaves the column at 0. -/
theorem repeatedLineBreaksSaturate : Obligations.RepeatedLineBreaksSaturate := by
  intro s n hrow hn
  obtain ⟨m, rfl⟩ : ∃ m, n = m + 1 := ⟨n - 1, by omega⟩
  obtain ⟨hcolumn, -⟩ := lineBreak_spec (lineBreak^[m] s)
  refine ⟨_, execAll_replicate_lnbrk _ s, ?_, lineBreak_iterate_spec hrow (m + 1)⟩
  rw [Function.iterate_succ_apply', hcolumn]

/-! ### Characters -/

/-- What the run of characters relies on and what it keeps. -/
structure TextRun (s t : State) : Prop where
  cfg : t.cfg = s.cfg
  scale : t.scale = .one
  row : t.row = s.row
  endFlag : t.endFlag = s.endFlag

theorem TextRun.pages_eq {s t : State} (h : TextRun s t) : pages t = pages s := by rw [pages, h.cfg, pages]

/-- One ASCII character at scale 1: the frame, and the cursor one cell on, or past the row (R152). -/
theorem exec_putc_ascii {s : State} (hwf : s.cfg.wf = true) (hscale : s.scale = .one) {b : Byte}
    (hb : 32 ≤ b.toNat ∧ b.toNat ≤ 127) :
    ∃ t, exec (.putc b) s = .next t ∧
      (s.column.toNat + 1 < 20 → TextRun s t ∧ t.column.toNat = s.column.toNat + 1) ∧
      (20 ≤ s.column.toNat + 1 → t.column = 0 ∧ t.row.toNat = min (s.row.toNat + 1) (pages s - 1) ∧
        t.endFlag = (s.endFlag || decide (s.row.toNat + 1 > pages s - 1))) := by
  obtain ⟨t, hexec, hframe, hfits, hwraps⟩ :=
    putcAdvancesTheCursor s b _ hwf (resolve_of_ascii _ _ hb.1 hb.2) (.inr ⟨_, rfl⟩)
  rw [hscale] at hfits hwraps
  refine ⟨t, hexec, fun h => ?_, hwraps⟩
  obtain ⟨hcolumn, hrow, hend⟩ := hfits h
  exact ⟨⟨by rw [hframe], by rw [hframe]; exact hscale, hrow, hend⟩, hcolumn⟩

/-- Characters that stay inside the row move the column by their number (R152). -/
theorem execAll_ascii_of_fits {s : State} (hwf : s.cfg.wf = true) (hscale : s.scale = .one) {bs : List Byte}
    (hbs : ∀ b ∈ bs, 32 ≤ b.toNat ∧ b.toNat ≤ 127) (hfits : s.column.toNat + bs.length < 20) :
    ∃ t, execAll (bs.map .putc) s = .next t ∧ TextRun s t ∧ t.column.toNat = s.column.toNat + bs.length := by
  induction bs generalizing s with
  | nil => exact ⟨s, rfl, ⟨rfl, hscale, rfl, rfl⟩, rfl⟩
  | cons b bs ih =>
    obtain ⟨hb, hbs⟩ := List.forall_mem_cons.1 hbs
    rw [List.length_cons] at hfits ⊢
    obtain ⟨u, hexec, hinside, -⟩ := exec_putc_ascii hwf hscale hb
    obtain ⟨hu, hcolumn⟩ := hinside (by omega)
    obtain ⟨t, hrest, ht, hcolumn'⟩ := ih (hu.cfg ▸ hwf) hu.scale hbs (by omega)
    refine ⟨t, (execAll_cons_of_next hexec _).trans hrest, ?_, by omega⟩
    exact ⟨ht.cfg.trans hu.cfg, ht.scale, ht.row.trans hu.row, ht.endFlag.trans hu.endFlag⟩

/-- Settles O47: nineteen characters stay inside the row, and the twentieth wraps. -/
theorem twentyCharactersFillARow : Obligations.TwentyCharactersFillARow := by
  intro s bs hwf hcolumn hscale hrow hlen hbs
  obtain rfl | ⟨first, last, rfl⟩ := List.eq_nil_or_concat' bs
  · cases hlen
  · obtain ⟨hfirst, hlast⟩ := List.forall_mem_append.1 hbs
    have hnineteen : first.length = 19 := by simpa using hlen
    have hstart : s.column.toNat = 0 := by rw [hcolumn]; rfl
    obtain ⟨u, hrun, hu, hucolumn⟩ := execAll_ascii_of_fits hwf hscale hfirst (by omega)
    obtain ⟨t, hexec, -, hwraps⟩ :=
      exec_putc_ascii (hu.cfg ▸ hwf) hu.scale (hlast last (List.mem_singleton_self last))
    obtain ⟨htcolumn, htrow, htend⟩ := hwraps (by omega)
    rw [hu.row, hu.pages_eq] at htrow htend
    rw [hu.endFlag] at htend
    have hprogram : execAll ((first ++ [last]).map .putc) s = .next t := by
      rw [List.map_append, execAll_append_of_next hrun]
      exact execAll_cons_of_next hexec []
    refine ⟨t, hprogram, htcolumn, htrow, htend.trans ?_⟩
    congr 2
    exact propext (by omega)

end Sys2Proof.Machine
end

section
/-! PROOF. The registers of the host read port, bit by bit (R17, R18, R216). -/

namespace Sys2Proof.Machine

theorem getLsbD_bitAt {k : Nat} (hk : k < 8) (b : Bool) (j : Nat) : (bitAt k b).getLsbD j = (b && decide (k = j)) := by
  cases b with
  | false => exact BitVec.getLsbD_zero
  | true =>
    change (BitVec.twoPow 8 k).getLsbD j = _
    rw [BitVec.getLsbD_twoPow, decide_eq_true hk, Bool.true_and]

theorem getLsbD_statusReg (s : State) (j : Nat) :
    (statusReg s).getLsbD j = (s.endFlag && decide (0 = j) || s.oor && decide (1 = j) || s.ill && decide (2 = j) ||
      busy s && decide (3 = j)) := by
  simp only [statusReg, BitVec.getLsbD_or, getLsbD_bitAt (by decide : 0 < 8), getLsbD_bitAt (by decide : 1 < 8),
    getLsbD_bitAt (by decide : 2 < 8), getLsbD_bitAt (by decide : 3 < 8)]

/-- Settles O24: STATUS has one bit for each of its four sources. -/
theorem statusMirrorsItsBits : Obligations.StatusMirrorsItsBits := by
  refine ⟨fun s => ?_, fun c => (hostRead_status _).trans (statusReg_eq_zero rfl rfl rfl rfl)⟩
  rw [hostRead_status]
  simp only [getLsbD_statusReg]
  refine ⟨by simp, by simp, by simp, ?busy, fun k hk => ?_⟩
  case busy =>
    have hbusy : busy s = decide (s.parse ≠ .idle) := by
      unfold busy
      cases s.parse <;> rfl
    simp [hbusy]
  · have hreserved : 0 ≠ k ∧ 1 ≠ k ∧ 2 ≠ k ∧ 3 ≠ k := by omega
    simp [hreserved]

theorem hostRead_of_two_le (s : State) {addr : Byte} (h : 2 ≤ addr.toNat) : hostRead s addr = 0#8 := by
  have h0 : addr ≠ 0#8 := by bv_omega
  have h1 : addr ≠ 1#8 := by bv_omega
  rw [hostRead, if_neg h0, if_neg h1]

/-- CFG as its three fields side by side (R18). -/
def cfgFields (pg8 : Bool) (mode : Mode) (autoSend : Bool) : Byte :=
  bitAt 0 pg8 ||| (modeCode mode <<< 1) ||| bitAt 3 autoSend

theorem cfgReg_eq_cfgFields (c : Config) :
    cfgReg c = cfgFields (decide (c.pageCount = .eight)) c.mode c.autoSend := rfl

/-- Each field is where R18 puts it, and bits 7:4 are zero. -/
theorem cfgFields_read (pg8 : Bool) (mode : Mode) (autoSend : Bool) :
    (cfgFields pg8 mode autoSend).getLsbD 0 = pg8 ∧
    (cfgFields pg8 mode autoSend).extractLsb' 1 2 = (modeCode mode).extractLsb' 0 2 ∧
    (cfgFields pg8 mode autoSend).getLsbD 3 = autoSend ∧
    (cfgFields pg8 mode autoSend).extractLsb' 4 4 = 0#4 := by
  cases mode with
  | direct => revert pg8 autoSend; decide
  | hardwareBuffer => revert pg8 autoSend; decide
  | softwareBuffer => revert pg8 autoSend; decide

/-- Settles O25: the fields of CFG, and nothing behind the addresses from 2 on. -/
theorem cfgReportsTheConfiguration : Obligations.CfgReportsTheConfiguration := by
  intro s
  obtain ⟨hpages, hmode, hsend, hreserved⟩ :=
    cfgFields_read (decide (s.cfg.pageCount = .eight)) s.cfg.mode s.cfg.autoSend
  rw [hostRead_cfg, cfgReg_eq_cfgFields]
  refine ⟨hpages, hmode.trans ?_, hsend, hreserved, fun addr haddr => hostRead_of_two_le s haddr⟩
  cases s.cfg.mode <;> rfl

end Sys2Proof.Machine
end

section
/-! PROOF. The resolver (R71 to R83): its answers on single bytes, and the bound on the glyph indices. The second form
of the bit-stretch unit (R91, R93), and the renderer's write list at scale 2 (R92, R135). -/

namespace Sys2Proof.Machine

/-! ### The resolver -/

/-- The two extended buckets of R77. -/
theorem remap_of_low {c : Nat} (hlo : 128 ≤ c) (hhi : c ≤ 143) : remap c = .glyph (c + 15) := by
  have hAscii : ¬((c : Int) - 32 ≤ 90) := by omega
  have hHigh : ¬(112 ≤ (c : Int) - 32 ∧ (c : Int) - 32 ≤ 159) := by omega
  have hLow : 96 ≤ (c : Int) - 32 ∧ (c : Int) - 32 ≤ 111 := by omega
  simp only [remap, if_neg hAscii, if_neg hHigh, if_pos hLow]
  congr 1
  omega

theorem remap_of_high {c : Nat} (hlo : 144 ≤ c) (hhi : c ≤ 191) : remap c = .glyph (c - 49) := by
  have hAscii : ¬((c : Int) - 32 ≤ 90) := by omega
  have hHigh : 112 ≤ (c : Int) - 32 ∧ (c : Int) - 32 ≤ 159 := by omega
  simp only [remap, if_neg hAscii, if_pos hHigh]
  congr 1
  omega

theorem remap_le {c g : Nat} (h : remap c = .glyph g) : g ≤ 158 := by
  unfold remap at h
  dsimp only at h
  split_ifs at h with hAscii hHigh hLow <;> cases h <;> omega

/-- An extended byte that ends no digraph is remapped (R76, R81). -/
theorem resolve_of_extended (asCode : Bool) {b last : Byte} (hlo : 128 ≤ b.toNat) (hhi : b.toNat ≤ 191)
    (hD1 : (last, b) ≠ (0xD1#8, 0x91#8)) (hD0 : (last, b) ≠ (0xD0#8, 0x81#8)) (hE2 : (last, b) ≠ (0xE2#8, 0x80#8))
    (h80 : (last, b) ≠ (0x80#8, 0x93#8)) : resolve asCode b last = remap b.toNat := by
  have hpair : ∀ k l : Byte, (last, b) ≠ (k, l) → ¬(last.toNat = k.toNat ∧ b.toNat = l.toNat) :=
    fun k l hne h => hne (Prod.ext (BitVec.eq_of_toNat_eq h.1) (BitVec.eq_of_toNat_eq h.2))
  have hNotNewline : b.toNat ≠ 10 := by omega
  have hNotAscii : ¬ b.toNat ≤ 127 := by omega
  have hNot1 : ¬(last.toNat = 209 ∧ b.toNat = 145) := hpair _ _ hD1
  have hNot2 : ¬(last.toNat = 208 ∧ b.toNat = 129) := hpair _ _ hD0
  have hNot3 : ¬(last.toNat = 226 ∧ b.toNat = 128) := hpair _ _ hE2
  have hNot4 : ¬(last.toNat = 128 ∧ b.toNat = 147) := hpair _ _ h80
  rw [resolve, if_neg hNotNewline, if_neg hNotAscii, if_neg hNot1, if_neg hNot2, if_neg hNot3, if_neg hNot4,
    if_pos hhi]

theorem resolve_of_control (asCode : Bool) {b : Byte} (last : Byte) (hb : b.toNat < 32) (hne : b.toNat ≠ 10) :
    resolve asCode b last = .outOfRange := by
  have hAscii : b.toNat ≤ 127 := by omega
  rw [resolve, if_neg hne, if_pos hAscii, if_pos hb]

theorem pair_ne_of_toNat_ne {last b k l : Byte} (h : b.toNat ≠ l.toNat) : (last, b) ≠ (k, l) :=
  fun heq => h (congrArg (fun p => p.2.toNat) heq)

/-- Settles O37: each range of bytes falls to one test of the resolver, once the digraphs of the range are excluded. -/
theorem resolverMapsSingleBytes : Obligations.ResolverMapsSingleBytes := by
  refine fun b last => ⟨fun hb => if_pos hb, fun hb hne => resolve_of_control true last hb hne,
    fun hlo hhi hD0 hE2 => ?low, fun hlo hhi hD1 h80 => ?high, fun hb => resolve_of_leadByte true last hb⟩
  case low =>
    have h145 : b.toNat ≠ (0x91#8 : Byte).toNat := (hhi.trans_lt (by decide)).ne
    have h147 : b.toNat ≠ (0x93#8 : Byte).toNat := (hhi.trans_lt (by decide)).ne
    rw [resolve_of_extended true hlo (by omega) (pair_ne_of_toNat_ne h145) hD0 hE2 (pair_ne_of_toNat_ne h147),
      remap_of_low hlo hhi]
  case high =>
    have h129 : b.toNat ≠ (0x81#8 : Byte).toNat := (Nat.lt_of_lt_of_le (by decide) hlo).ne'
    have h128 : b.toNat ≠ (0x80#8 : Byte).toNat := (Nat.lt_of_lt_of_le (by decide) hlo).ne'
    rw [resolve_of_extended true (by omega) hhi hD1 (pair_ne_of_toNat_ne h129) (pair_ne_of_toNat_ne h128) h80,
      remap_of_high hlo hhi]

/-- Settles O38: the eight rows of R74's table in the two readings of R75. -/
theorem digraphsResolveToSubstitutes : Obligations.DigraphsResolveToSubstitutes :=
  ⟨rfl, rfl, rfl, rfl, rfl, rfl, rfl, rfl⟩

theorem substitute_le {asCode : Bool} {c g : Nat} (hc : c ≤ 181) (h : substitute asCode c = .glyph g) :
    g ≤ 181 ∧ (asCode = true → g ≤ 158) := by
  cases asCode with
  | false =>
    cases h
    exact ⟨hc, nofun⟩
  | true =>
    have hg : g ≤ 158 := by
      change (if c ≤ 127 then Resolved.glyph (c - 32) else remap c) = _ at h
      split at h
      · cases h; omega
      · exact remap_le h
    exact ⟨by omega, fun _ => hg⟩

/-- The bound of R83 on the glyph indices, in the two readings of the substitutes. -/
theorem resolve_le {asCode : Bool} {b last : Byte} {g : Nat} (h : resolve asCode b last = .glyph g) :
    g ≤ 181 ∧ (asCode = true → g ≤ 158) := by
  have hsmall : g ≤ 158 → g ≤ 181 ∧ (asCode = true → g ≤ 158) := fun hg => ⟨by omega, fun _ => hg⟩
  unfold resolve at h
  split_ifs at h with hNewline hAscii hControl hD1 hD0 hE2 h80 hExtended
  · cases h
    exact hsmall (by omega)
  · exact substitute_le le_rfl h
  · exact substitute_le (by decide) h
  · exact substitute_le (by decide) h
  · exact hsmall (remap_le h)

/-- Settles O39: R6 (b) asks for a table that holds the greatest index of each reading. -/
theorem resolvedGlyphsAreInTheFont : Obligations.ResolvedGlyphsAreInTheFont := by
  intro c b last g hwf h
  obtain ⟨hmax, hcode⟩ := resolve_le h
  obtain ⟨-, hlong, hlonger⟩ := (config_wf_iff c).1 hwf
  refine ⟨?_, hcode, hmax⟩
  cases has : c.substAsCode with
  | true => exact (hcode has).trans_lt (hlong has)
  | false => exact hmax.trans_lt (hlonger has)

/-! ### The bit-stretch unit -/

/-- The masked shifts double every bit, byte by byte (R91). -/
theorem stretchMasked_eq_stretch : ∀ m : Byte, stretchMasked m = stretch m := by decide

theorem stretch_not (m : Byte) : stretch (~~~m) = ~~~(stretch m) := by
  refine BitVec.eq_of_getLsbD_eq fun j hj => ?_
  have hhalf : j / 2 < 8 := by omega
  rw [getLsbD_stretch, BitVec.getLsbD_not, BitVec.getLsbD_not, getLsbD_stretch, decide_eq_true hj,
    decide_eq_true hhalf]

/-- Settles O41: the masked form byte by byte, the complement bit by bit. -/
theorem stretchFormsAgree : Obligations.StretchFormsAgree :=
  fun m => ⟨stretchMasked_eq_stretch m, stretch_not m⟩

/-! ### The write list at scale 2 -/

@[simp] theorem length_stretchedColumn (x p k : Nat) (m : Byte) : (stretchedColumn x p k m).length = 4 := rfl

theorem length_cellWrites2 (x p : Nat) (masks : List Byte) : (cellWrites2 x p masks).length = 4 * masks.length := by
  simp [cellWrites2, List.length_flatMap, Nat.mul_comm]

/-- The four writes of mask `k` stand at the indices from `4k` on (R135). -/
theorem getElem?_cellWrites2 (x p k : Nat) {j : Nat} (hj : j < 4) (masks : List Byte) :
    (cellWrites2 x p masks)[4 * k + j]? = masks[k]?.bind fun m => (stretchedColumn x p k m)[j]? := by
  suffices h : ∀ n, ((masks.zipIdx n).flatMap fun m => stretchedColumn x p m.2 m.1)[4 * k + j]? =
      masks[k]?.bind fun m => (stretchedColumn x p (n + k) m)[j]? by
    simpa [cellWrites2] using h 0
  induction masks generalizing k with
  | nil => simp
  | cons m masks ih =>
    intro n
    rw [List.zipIdx_cons, List.flatMap_cons]
    cases k with
    | zero =>
      rw [Nat.mul_zero, Nat.zero_add, List.getElem?_append_left hj]
      rfl
    | succ k =>
      have hpast : (stretchedColumn x p n m).length ≤ 4 * (k + 1) + j := by rw [length_stretchedColumn]; omega
      have hindex : 4 * (k + 1) + j - (stretchedColumn x p n m).length = 4 * k + j := by
        rw [length_stretchedColumn]; omega
      rw [List.getElem?_append_right hpast, hindex, ih k (n + 1), List.getElem?_cons_succ, Nat.add_right_comm n 1 k,
        Nat.add_assoc]

/-- Of the four writes of a column, `2d` and `2d + 1` are the low and the high byte at its pixel column `d`. -/
theorem getElem?_stretchedColumn (x p k : Nat) (m : Byte) {d : Nat} (hd : d < 2) :
    (stretchedColumn x p k m)[2 * d]? = some ⟨x + 2 * k + d, p, lowPage (stretch m)⟩ ∧
    (stretchedColumn x p k m)[2 * d + 1]? = some ⟨x + 2 * k + d, p + 1, highPage (stretch m)⟩ := by
  obtain rfl | rfl : d = 0 ∨ d = 1 := by omega
  · exact ⟨rfl, rfl⟩
  · exact ⟨rfl, rfl⟩

theorem glyphWrites_of_scale_two {s : State} (hscale : s.scale = .two) (g : Nat) :
    glyphWrites s g = cellWrites2 (s.column.toNat * 6) s.row.toNat (glyphMasks s g) := by
  rw [glyphWrites, hscale]; rfl

/-- Settles O46: four writes per mask, and each mask comes from a column of the glyph's entry. -/
theorem glyphWritesAtScaleTwo : Obligations.GlyphWritesAtScaleTwo := by
  intro s g e hscale he
  rw [glyphWrites_of_scale_two hscale]
  refine ⟨by rw [length_cellWrites2, length_glyphMasks], fun k d hk hd => ?_⟩
  obtain ⟨m, hcolumn, hmask⟩ := exists_column_of_entry he hk
  obtain ⟨hlow, hhigh⟩ := getElem?_stretchedColumn (s.column.toNat * 6) s.row.toNat k
    (if s.inverse then ~~~m else m) hd
  refine ⟨m, hcolumn, ?_, ?_⟩
  · rw [getElem?_cellWrites2 _ _ _ (by omega), hmask, Option.bind_some, hlow]
    rfl
  · rw [Nat.add_assoc, getElem?_cellWrites2 _ _ _ (by omega), hmask, Option.bind_some, hhigh]
    rfl

end Sys2Proof.Machine
end

section
/-! PROOF. CLEAR erases the history of the pixels (R109, R232): after it, two states that differ only in pixel stores,
traces and draws show the same bytes, and every command keeps it so. -/

namespace Sys2Proof.Machine

/-! ### States that look alike -/

/-- The two states differ only in stores, traces and draws, and show the same bytes. -/
structure Alike (s t : State) : Prop where
  registers : sameButPixels s t
  shows : samePixels s t

/-- What is equal in two states that differ only in stores, traces and draws. -/
theorem sameButPixels_fields {s t : State} (h : sameButPixels s t) :
    t.cfg = s.cfg ∧ t.column = s.column ∧ t.row = s.row ∧ t.scale = s.scale ∧ t.inverse = s.inverse ∧
      t.lastByte = s.lastByte := by
  rw [h]; exact ⟨rfl, rfl, rfl, rfl, rfl, rfl⟩

theorem sameButPixels_of_pixelOnly {s t s' t' : State} (h : sameButPixels s t) (hs : pixelOnly s s')
    (ht : pixelOnly t t') : sameButPixels s' t' := by
  unfold sameButPixels pixelOnly at *
  rw [ht, hs, h]

theorem alike_of_sameStores {s t s' t' : State} (h : Alike s t) (hs : SameStores s s') (ht : SameStores t t')
    (hregisters : sameButPixels s' t') : Alike s' t' := by
  refine ⟨hregisters, fun i hi => ?_⟩
  have hshadow : hasShadow s' = hasShadow s := by rw [hasShadow, hs.cfg, hasShadow]
  rw [hs.pmByte_eq, ht.pmByte_eq, hs.sbByte_eq, ht.sbByte_eq, hshadow]
  exact h.shows i (fbSize_eq_of_cfg hs.cfg ▸ hi)

/-- The operation writes registers only, and not by way of the stores, the trace or the draws. -/
structure OnRegisters (f : State → State) : Prop where
  stores : ∀ s, SameStores s (f s)
  registers : ∀ s t, sameButPixels s t → sameButPixels (f s) (f t)

theorem OnRegisters.keeps_alike {f : State → State} (hf : OnRegisters f) {s t : State} (h : Alike s t) :
    Alike (f s) (f t) :=
  alike_of_sameStores h (hf.stores s) (hf.stores t) (hf.registers s t h.registers)

/-- An operation that only draws keeps two states alike if it keeps what they show. -/
theorem alike_of_pixelOnly {s t s' t' : State} (h : sameButPixels s t) (hs : pixelOnly s s') (ht : pixelOnly t t')
    (hpm : ∀ i, i < fbSize s → pmByte s' i = pmByte t' i)
    (hsb : s.cfg.mode = .softwareBuffer → ∀ i, i < fbSize s → sbByte s' i = sbByte t' i) : Alike s' t' := by
  refine ⟨sameButPixels_of_pixelOnly h hs ht, fun i hi => ?_⟩
  rw [fbSize_eq_of_cfg (pixelOnly_cfg hs)] at hi
  refine ⟨hpm i hi, fun hshadow => hsb ?_ i hi⟩
  rw [hasShadow, pixelOnly_cfg hs] at hshadow
  exact eq_of_beq hshadow

theorem Alike.sbByte_eq {s t : State} (h : Alike s t) (hmode : s.cfg.mode = .softwareBuffer) {i : Nat}
    (hi : i < fbSize s) : sbByte s i = sbByte t i :=
  (h.shows i hi).2 (by simp [hasShadow, hmode])

theorem Alike.cfg_eq {s t : State} (h : Alike s t) : t.cfg = s.cfg := (sameButPixels_fields h.registers).1

theorem Alike.pages_eq {s t : State} (h : Alike s t) : pages t = pages s := by rw [pages, h.cfg_eq, pages]

theorem Alike.fbSize_eq {s t : State} (h : Alike s t) : fbSize t = fbSize s := fbSize_eq_of_cfg h.cfg_eq

/-! ### Drawing -/

/-- A run of writes shows its own last write to an index, or what stood there. -/
theorem Memory.read?_writeAll (cells : List Host.Cell) (m : Memory) (a : Nat) :
    (m.writeAll cells).read? a = (Memory.read? (Memory.writeAll [] cells) a).or (m.read? a) := by
  induction cells using List.reverseRecOn with
  | nil => rfl
  | append_singleton cells c ih =>
    have hlast : ∀ n : Memory, n.writeAll (cells ++ [c]) = (n.writeAll cells).write c.1 c.2 := fun n => by
      rw [Memory.writeAll, List.foldl_append]
      rfl
    rw [hlast, hlast, Memory.read?_write, Memory.read?_write, ih]
    split <;> rfl

theorem pmByte_panelTx (s : State) (xa xb pa pb : Nat) (data : List Byte) (a : Nat) :
    pmByte (panelTx s xa xb pa pb data) a =
      (Memory.read? (Memory.writeAll [] (windowCells (pages s) xa pa pb data)) a).getD (pmByte s a) := by
  rw [pmByte, panelTx_pm, Memory.read?_writeAll, pmByte]
  cases Memory.read? (Memory.writeAll [] (windowCells (pages s) xa pa pb data)) a <;> rfl

theorem alike_panelTx {s t : State} (h : Alike s t) (xa xb pa pb : Nat) (data : List Byte) :
    Alike (panelTx s xa xb pa pb data) (panelTx t xa xb pa pb data) := by
  refine alike_of_pixelOnly h.registers (pixelOnly_panelTx s xa xb pa pb data) (pixelOnly_panelTx t xa xb pa pb data)
    (fun i hi => ?_) fun hmode i hi => h.sbByte_eq hmode hi
  rw [pmByte_panelTx, pmByte_panelTx, h.pages_eq, (h.shows i hi).1]

theorem alike_directWrite {s t : State} (h : Alike s t) (ws : List ByteWrite) :
    Alike (directWrite s ws) (directWrite t ws) := by
  cases ws with
  | nil => exact h
  | cons w ws => exact alike_panelTx h _ _ _ _ _

theorem alike_readbackWrite {s t : State} (h : Alike s t) (w : ByteWrite) :
    Alike (readbackWrite s w) (readbackWrite t w) := by
  refine alike_of_pixelOnly h.registers (pixelOnly_readbackWrite s w) (pixelOnly_readbackWrite t w)
    (fun i hi => ?_) fun hmode i hi => h.sbByte_eq hmode hi
  rw [(readbackWrite_spec s w).1, (readbackWrite_spec t w).1, h.pages_eq, (h.shows i hi).1]

theorem alike_shadowWrite {s t : State} (h : Alike s t) (hmode : s.cfg.mode = .softwareBuffer) (w : ByteWrite) :
    Alike (shadowWrite s w) (shadowWrite t w) := by
  obtain ⟨hsb, hpush, hdefer⟩ := shadowWrite_spec s w
  obtain ⟨hsb', hpush', hdefer'⟩ := shadowWrite_spec t w
  rw [h.cfg_eq] at hpush' hdefer'
  have hpixel := pixelOnly_shadowWrite s w
  have hpixel' := pixelOnly_shadowWrite t w
  refine alike_of_pixelOnly h.registers hpixel hpixel' (fun i hi => ?_) fun _ i hi => ?_
  · cases hsend : s.cfg.autoSend with
    | true => rw [(hpush hsend).1, (hpush' hsend).1, h.pages_eq, h.sbByte_eq hmode hi, (h.shows i hi).1]
    | false =>
      rw [pmByte_of_pixelOnly hpixel (hdefer hsend).1, pmByte_of_pixelOnly hpixel' (hdefer' hsend).1, (h.shows i hi).1]
  · rw [hsb, hsb', h.pages_eq, h.sbByte_eq hmode hi]

/-- If a byte write keeps states alike, a run of them does. -/
theorem alike_foldl {f : State → ByteWrite → State} {c : Config} (hcfg : ∀ s w, (f s w).cfg = s.cfg)
    (hf : ∀ s t w, s.cfg = c → Alike s t → Alike (f s w) (f t w)) {s t : State} (hs : s.cfg = c) (h : Alike s t)
    (ws : List ByteWrite) : Alike (ws.foldl f s) (ws.foldl f t) := by
  induction ws generalizing s t with
  | nil => exact h
  | cons w ws ih => exact ih ((hcfg s w).trans hs) (hf s t w hs h)

theorem alike_writeBytes {s t : State} (h : Alike s t) (ws : List ByteWrite) :
    Alike (writeBytes s ws) (writeBytes t ws) := by
  have hmode' : t.cfg.mode = s.cfg.mode := congrArg Config.mode h.cfg_eq
  cases hmode : s.cfg.mode with
  | direct =>
    rw [writeBytes_of_direct hmode, writeBytes_of_direct (hmode'.trans hmode), h.pages_eq]
    exact alike_directWrite h _
  | hardwareBuffer =>
    rw [writeBytes_of_hardwareBuffer hmode, writeBytes_of_hardwareBuffer (hmode'.trans hmode), h.pages_eq]
    exact alike_foldl (c := s.cfg) (f := readbackWrite) (fun _ _ => rfl) (fun _ _ w _ h => alike_readbackWrite h w)
      rfl h _
  | softwareBuffer =>
    rw [writeBytes_of_softwareBuffer hmode, writeBytes_of_softwareBuffer (hmode'.trans hmode), h.pages_eq]
    exact alike_foldl shadowWrite_keeps_cfg (fun _ _ w hc h => alike_shadowWrite h (hc ▸ hmode) w) rfl h _

theorem alike_dot {s t : State} (h : Alike s t) (x y : Int) : Alike (dot s x y) (dot t x y) := by
  rw [dot_eq, dot_eq, pixelInBounds_of_cfg h.cfg_eq]
  split
  · exact alike_writeBytes h _
  · exact h

theorem alike_dots {s t : State} (h : Alike s t) (ps : List (Int × Int)) : Alike (dots s ps) (dots t ps) := by
  induction ps generalizing s t with
  | nil => exact h
  | cons q ps ih => exact ih (alike_dot h q.1 q.2)

/-- The renderer reads the cursor, the scale, `inverse` and FONT, and nothing of the stores (R130). -/
theorem glyphWrites_of_sameButPixels {s t : State} (h : sameButPixels s t) (g : Nat) :
    glyphWrites t g = glyphWrites s g := by
  obtain ⟨hcfg, hcolumn, hrow, hscale, hinverse, -⟩ := sameButPixels_fields h
  simp only [glyphWrites, glyphMasks, cellX, cellPage, hcfg, hcolumn, hrow, hscale, hinverse]

theorem alike_render {s t : State} (h : Alike s t) (g : Nat) : Alike (render s g) (render t g) := by
  rw [render, render, glyphWrites_of_sameButPixels h.registers]
  exact alike_writeBytes h _

/-! ### CLEAR and FLUSH -/

/-- After CLEAR both states show zero bytes, whatever they showed before (R109). -/
theorem alike_clearAll {s t : State} (h : sameButPixels s t) : Alike (clearAll s) (clearAll t) := by
  obtain ⟨hcfg, -⟩ := sameButPixels_fields h
  obtain ⟨hpm, hsb⟩ := clearAll_reads_zero s
  obtain ⟨hpm', hsb'⟩ := clearAll_reads_zero t
  rw [fbSize_eq_of_cfg hcfg] at hpm' hsb'
  refine alike_of_pixelOnly h (pixelOnly_clearAll s) (pixelOnly_clearAll t) (fun i hi => ?_) fun hmode i hi => ?_
  · rw [hpm i hi, hpm' i hi]
  · rw [hsb hmode i hi, hsb' (hcfg ▸ hmode) i hi]

theorem alike_flushShadow {s t : State} (h : Alike s t) : Alike (flushShadow s) (flushShadow t) := by
  by_cases hmode : s.cfg.mode = .softwareBuffer
  · have hdata : (List.range (fbSize t)).map (sbByte t) = (List.range (fbSize s)).map (sbByte s) := by
      rw [h.fbSize_eq]
      exact List.map_congr_left fun i hi => (h.sbByte_eq hmode (List.mem_range.1 hi)).symm
    rw [flushShadow_of_shadow hmode, flushShadow_of_shadow (h.cfg_eq ▸ hmode), hdata, panelTxAll, panelTxAll,
      h.pages_eq]
    exact alike_panelTx h _ _ _ _ _
  · rw [flushShadow_of_noShadow hmode, flushShadow_of_noShadow (h.cfg_eq ▸ hmode)]
    exact h

/-! ### The cursor and the registers -/

theorem onRegisters_lineBreak : OnRegisters lineBreak where
  stores s := sameStores_of_cursorOnly (cursorOnly_lineBreak s)
  registers s t h := by
    obtain ⟨hcfg, -, hrow, hscale, -⟩ := sameButPixels_fields h
    have hpages : pages t = pages s := by rw [pages, hcfg, pages]
    obtain hsaturates | hfits := Nat.lt_or_ge (pages s - 1) (s.row.toNat + s.scale.toNat)
    · have hsaturates' : pages t - 1 < t.row.toNat + t.scale.toNat := by rwa [hpages, hrow, hscale]
      rw [lineBreak_of_saturates hsaturates, lineBreak_of_saturates hsaturates', hpages]
      unfold sameButPixels at *
      rw [h]
    · have hfits' : t.row.toNat + t.scale.toNat ≤ pages t - 1 := by rwa [hpages, hrow, hscale]
      rw [lineBreak_of_fits hfits, lineBreak_of_fits hfits', hrow, hscale]
      unfold sameButPixels at *
      rw [h]

theorem onRegisters_advance : OnRegisters advance where
  stores s := sameStores_of_cursorOnly (cursorOnly_advance s)
  registers s t h := by
    obtain ⟨-, hcolumn, -, hscale, -⟩ := sameButPixels_fields h
    obtain hfits | hwraps := Nat.lt_or_ge (s.column.toNat + s.scale.toNat) 20
    · have hfits' : t.column.toNat + t.scale.toNat < 20 := by rwa [hcolumn, hscale]
      rw [advance_of_fits hfits, advance_of_fits hfits', hcolumn, hscale]
      unfold sameButPixels at *
      rw [h]
    · have hwraps' : 20 ≤ t.column.toNat + t.scale.toNat := by rwa [hcolumn, hscale]
      rw [advance_of_wraps hwraps, advance_of_wraps hwraps']
      exact onRegisters_lineBreak.registers s t h

/-- An update that leaves the stores alone and commutes with replacing them is on registers. -/
theorem onRegisters_of_commutes {f : State → State} (hstores : ∀ s, SameStores s (f s))
    (hcommutes : ∀ s sb pm trace resets, f { s with sb := sb, pm := pm, trace := trace, resets := resets } =
      { f s with sb := sb, pm := pm, trace := trace, resets := resets }) : OnRegisters f where
  stores := hstores
  registers s t h := by
    obtain ⟨sb, pm, trace, resets, rfl⟩ :
        ∃ sb pm trace resets, t = { s with sb := sb, pm := pm, trace := trace, resets := resets } :=
      ⟨_, _, _, _, h⟩
    rw [hcommutes s sb pm trace resets]
    rfl

theorem onRegisters_lastByte (b : Byte) : OnRegisters fun s => { s with lastByte := b } :=
  onRegisters_of_commutes (fun _ => ⟨rfl, rfl, rfl, rfl, rfl⟩) fun _ _ _ _ _ => rfl

theorem onRegisters_setcur (col row : Byte) :
    OnRegisters fun s => { s with column := clampColumn col, row := clampRow (pages s) row, endFlag := false } :=
  onRegisters_of_commutes (fun _ => ⟨rfl, rfl, rfl, rfl, rfl⟩) fun _ _ _ _ _ => rfl

theorem onRegisters_scale (v : Scale) : OnRegisters fun s => { s with scale := v } :=
  onRegisters_of_commutes (fun _ => ⟨rfl, rfl, rfl, rfl, rfl⟩) fun _ _ _ _ _ => rfl

theorem onRegisters_inverse (v : Bool) : OnRegisters fun s => { s with inverse := v } :=
  onRegisters_of_commutes (fun _ => ⟨rfl, rfl, rfl, rfl, rfl⟩) fun _ _ _ _ _ => rfl

theorem onRegisters_raise (c : Condition) : OnRegisters (raise c) :=
  onRegisters_of_commutes (fun s => by cases c <;> exact ⟨rfl, rfl, rfl, rfl, rfl⟩)
    fun _ _ _ _ _ => by cases c <;> rfl

theorem onRegisters_clearConditions : OnRegisters clearConditions :=
  onRegisters_of_commutes (fun _ => ⟨rfl, rfl, rfl, rfl, rfl⟩) fun _ _ _ _ _ => rfl

/-! ### Every command -/

theorem alike_actOnResult {s t : State} (h : Alike s t) (r : Resolved) :
    Alike (actOnResult r s) (actOnResult r t) := by
  cases r with
  | newline => exact onRegisters_lineBreak.keeps_alike h
  | suppress => exact h
  | glyph g => exact onRegisters_advance.keeps_alike (alike_render h g)
  | outOfRange =>
    exact onRegisters_advance.keeps_alike (alike_render ((onRegisters_raise .oor).keeps_alike h) blankGlyph)

theorem wf_of_exec_putc {s t : State} {b : Byte} (h : exec (.putc b) s = .next t) : s.cfg.wf = true := by
  cases hwf : s.cfg.wf with
  | true => rfl
  | false =>
    have hrefused : exec (.putc b) s = .refused .illFormedConfig := ((illFormedFontIsRefused s).2.1 hwf).2 b
    cases hrefused.symm.trans h

/-- Of two states that look alike, every command makes two that look alike. -/
theorem exec_alike {i : Instr} {s t s' : State} (h : Alike s t) (hexec : exec i s = .next s') :
    ∃ t', exec i t = .next t' ∧ Alike s' t' := by
  cases i with
  | nop => cases hexec; exact ⟨t, rfl, h⟩
  | putc b =>
    have hwf : t.cfg.wf = true := h.cfg_eq ▸ wf_of_exec_putc hexec
    obtain ⟨hcfg, -, -, -, -, hlast⟩ := sameButPixels_fields h.registers
    have hresult : resolve t.cfg.substAsCode b t.lastByte = resolve s.cfg.substAsCode b s.lastByte := by
      rw [hcfg, hlast]
    refine ⟨_, exec_putc_of_wf hwf b, ?_⟩
    rw [eq_of_exec_putc hexec, hresult]
    exact alike_actOnResult ((onRegisters_lastByte b).keeps_alike h) _
  | lnbrk => cases hexec; exact ⟨_, rfl, onRegisters_lineBreak.keeps_alike h⟩
  | setcur col row => cases hexec; exact ⟨_, rfl, (onRegisters_setcur col row).keeps_alike h⟩
  | setscale v =>
    by_cases h1 : v = 1#8
    · subst h1; cases hexec; exact ⟨_, rfl, (onRegisters_scale .one).keeps_alike h⟩
    · by_cases h2 : v = 2#8
      · subst h2; cases hexec; exact ⟨_, rfl, (onRegisters_scale .two).keeps_alike h⟩
      · cases (exec_setscale_illegal h1 h2 s).symm.trans hexec
        exact ⟨_, exec_setscale_illegal h1 h2 t, (onRegisters_raise .ill).keeps_alike h⟩
  | setinv v =>
    by_cases h0 : v = 0#8
    · subst h0; cases hexec; exact ⟨_, rfl, (onRegisters_inverse false).keeps_alike h⟩
    · by_cases h1 : v = 1#8
      · subst h1; cases hexec; exact ⟨_, rfl, (onRegisters_inverse true).keeps_alike h⟩
      · cases (exec_setinv_illegal h0 h1 s).symm.trans hexec
        exact ⟨_, exec_setinv_illegal h0 h1 t, (onRegisters_raise .ill).keeps_alike h⟩
  | clear => cases hexec; exact ⟨_, rfl, alike_clearAll h.registers⟩
  | flush => cases hexec; exact ⟨_, rfl, alike_flushShadow h⟩
  | dot x y => cases hexec; exact ⟨_, rfl, alike_dot h x y⟩
  | line x0 y0 x1 y1 => cases hexec; exact ⟨_, rfl, alike_dots h _⟩
  | clrst => cases hexec; exact ⟨_, rfl, onRegisters_clearConditions.keeps_alike h⟩
  | reserved0B | reserved0C | reserved10 | reserved20 | reserved40 | reserved80 =>
    cases hexec; exact ⟨_, rfl, (onRegisters_raise .ill).keeps_alike h⟩

theorem execAll_alike {prog : List Instr} {s t s' : State} (h : Alike s t) (hexec : execAll prog s = .next s') :
    ∃ t', execAll prog t = .next t' ∧ Alike s' t' := by
  induction prog generalizing s t with
  | nil => cases hexec; exact ⟨t, rfl, h⟩
  | cons i prog ih =>
    rw [execAll] at hexec
    cases hi : exec i s with
    | next u =>
      rw [hi] at hexec
      obtain ⟨v, hv, huv⟩ := exec_alike h hi
      obtain ⟨t', ht', halike⟩ := ih huv hexec
      exact ⟨t', (execAll_cons_of_next hv prog).trans ht', halike⟩
    | fault r => rw [hi] at hexec; cases hexec
    | refused r => rw [hi] at hexec; cases hexec

/-- Settles O23: CLEAR makes the two states look alike, and the program after it keeps them so. -/
theorem clearErasesPixelHistory : Obligations.ClearErasesPixelHistory := by
  intro prog s t s' h hexec
  rw [execAll_cons_of_next (exec_clear s)] at hexec
  obtain ⟨t', ht', halike⟩ := execAll_alike (alike_clearAll h) hexec
  exact ⟨t', (execAll_cons_of_next (exec_clear t) prog).trans ht', halike.registers, halike.shows⟩

end Sys2Proof.Machine
end
